-- ==== Sys2Proof/Word.lean ====
section
/-! DEFINITION. The word types of the block: bytes, window coordinates, chip-select lines (rule R8). -/

namespace Sys2Proof

/-- An unsigned 8-bit value (R8). -/
abbrev Byte := BitVec 8

/-- An unsigned 16-bit window coordinate (R54). -/
abbrev Coord := BitVec 16

/-- A chip-select line, 0 or 1 (R14). -/
abbrev Line := BitVec 1

/-- A GPIO pin identifier, a member of `PIN_SPACE` (R53). -/
abbrev Pin := Nat

end Sys2Proof
end

