-- ==== Sys2Proof/Config.lean ====
section
/-! DEFINITION. The immutable configuration record (rules R6, R20) and the ten refusal reasons (R177).
Every field is a parameter of R6; none has a value here. A parameter the spec marks OPEN is an argument like
the others (R7). -/

namespace Sys2Proof

/-- The bus width mode, one of three (R71). -/
inductive BusMode
  | bmDefault   -- "standard multi-byte command"
  | bmBus16     -- "16-bit-wide bus"
  | bmCursor8   -- "8-bit command/8-bit data"
  deriving DecidableEq, Repr

/-- The fifteen opcode parameters `OPC_*` (R78). -/
structure Opcodes where
  swreset  : Byte
  slpout   : Byte
  noron    : Byte
  invoff   : Byte
  invon    : Byte
  gamset   : Byte
  dispon   : Byte
  caset    : Byte
  raset    : Byte
  ramwr    : Byte
  madctl   : Byte
  vscrsadd : Byte
  colmod   : Byte
  frmctr1  : Byte
  dgmen    : Byte
  deriving DecidableEq, Repr

/-- The eight delay parameters `T_*`, in microseconds, each a lower bound (R6, R12, R198). -/
structure Delays where
  reset   : Nat
  swreset : Nat
  slpout  : Nat
  colmod  : Nat
  madctl  : Nat
  noron   : Nat
  dispon  : Nat
  settle  : Nat
  deriving DecidableEq, Repr

/-- The configuration record of R20: exactly the parameters of R6. -/
structure Config where
  /-- `W`, panel width. -/
  w : Nat
  /-- `H`, visible height. -/
  h : Nat
  /-- `AH`, actual height. -/
  ah : Nat
  /-- `BUSMODE`. -/
  busMode : BusMode
  /-- `N`, panel count. -/
  n : Nat
  /-- `SECONDARY_CS_HW`. -/
  secondaryCsHw : Bool
  /-- `DMA_QUEUED`. -/
  dmaQueued : Bool
  /-- `RESET_PIN`; absence is the feature disabled. -/
  resetPin : Option Pin
  /-- `BACKLIGHT_PIN`; absence is the feature disabled. -/
  backlightPin : Option Pin
  /-- `SLOW_DIV`. -/
  slowDiv : Nat
  /-- `TARGET_DIV` (OPEN). -/
  targetDiv : Nat
  /-- `CLK_DIV_BITS` (OPEN). -/
  clkDivBits : Nat
  /-- `BPP_BYTES`. -/
  bppBytes : Nat
  /-- `F_NO_SWRESET`. -/
  fNoSwreset : Bool
  /-- `F_NO_GAMSET_FRMCTR`. -/
  fNoGamsetFrmctr : Bool
  /-- `F_GAMMA_ENABLE`. -/
  fGammaEnable : Bool
  /-- `F_VSCROLL`. -/
  fVscroll : Bool
  /-- `MADCTL_FAMILY_DEFAULT` (OPEN). -/
  madctlFamilyDefault : Byte
  /-- `INV_FAMILY_DEFAULT`. -/
  invFamilyDefault : Bool
  /-- `OV_BGR_SWAP`. -/
  ovBgrSwap : Bool
  /-- `OV_AXIS_EXCHANGE`. -/
  ovAxisExchange : Bool
  /-- `OV_HAT_ROTATE`. -/
  ovHatRotate : Bool
  /-- `OV_ROTATE_180`. -/
  ovRotate180 : Bool
  /-- `OV_INVERT`. -/
  ovInvert : Bool
  /-- `HAT_ROT_MASK` (OPEN). -/
  hatRotMask : Byte
  /-- `MADCTL_BGR`. -/
  madctlBgr : Byte
  /-- `MADCTL_MV`. -/
  madctlMv : Byte
  /-- `MADCTL_MX`. -/
  madctlMx : Byte
  /-- `MADCTL_MY`. -/
  madctlMy : Byte
  /-- `OPC_*`. -/
  opc : Opcodes
  /-- `ARG_GAMSET`. -/
  argGamset : Byte
  /-- `ARG_DGMEN`. -/
  argDgmen : Byte
  /-- `ARG_COLMOD`. -/
  argColmod : Byte
  /-- `ARG_FRMCTR1`. -/
  argFrmctr1 : List Byte
  /-- `PAD_SCALAR16`. -/
  padScalar16 : Bool
  /-- `FINAL_X_END`. -/
  finalXEnd : Nat
  /-- `FINAL_Y_END`. -/
  finalYEnd : Nat
  /-- `T_*`. -/
  t : Delays
  /-- `PIN_SPACE` (OPEN): the pins that exist (log 24). -/
  pinSpace : List Pin
  deriving DecidableEq, Repr

/-- The refusal reasons, a closed enumeration (R177); each is raised only by its check of R176. -/
inductive RefuseReason
  | rfGeometry       -- K1
  | rfFinalRange     -- K2
  | rfCursor8Range   -- K3
  | rfPanelCount     -- K4
  | rfBpp            -- K5
  | rfVscrollOffset  -- K6
  | rfMadctlMasks    -- K7
  | rfOpcodes        -- K8
  | rfClkdiv         -- K9
  | rfPins           -- K10
  deriving DecidableEq, Repr

end Sys2Proof
end

