-- ==== Sys2Proof/Machine/Defaults.lean ====
section
/-! DEFINITION. The values the spec gives parameters: the [GK] defaults and the document's delay figures of
rule R6, and the assumed configuration of `95_test_vectors.md`. PRESUMED and DESIGN CHOICE (log 2): a claim
that rests on one of them is a claim about that value only (R7). -/

namespace Sys2Proof

/-- The opcode defaults of R78, [from general knowledge, not in source]. PRESUMED (log 2). -/
def Opcodes.assumed : Opcodes where
  swreset  := 0x01
  slpout   := 0x11
  noron    := 0x13
  invoff   := 0x20
  invon    := 0x21
  gamset   := 0x26
  dispon   := 0x29
  caset    := 0x2A
  raset    := 0x2B
  ramwr    := 0x2C
  madctl   := 0x36
  vscrsadd := 0x37
  colmod   := 0x3A
  frmctr1  := 0xB1
  dgmen    := 0xBA

/-- The document's delay figures (R198). -/
def Delays.assumed : Delays where
  reset   := 120000
  swreset := 120000
  slpout  := 120000
  colmod  := 20000
  madctl  := 10000
  noron   := 10000
  dispon  := 100000
  settle  := 10000

/-- The assumed configuration of `95_test_vectors.md` for a given geometry, panel count and bus mode; the OPEN
parameters have the values that file assumes "for the vectors only". DESIGN CHOICE (log 2). -/
def Config.assumed (w h ah n : Nat) (mode : BusMode) : Config where
  w := w
  h := h
  ah := ah
  busMode := mode
  n := n
  secondaryCsHw := false
  dmaQueued := false
  resetPin := none
  backlightPin := none
  slowDiv := 34
  targetDiv := 6
  clkDivBits := 16
  bppBytes := 2
  fNoSwreset := false
  fNoGamsetFrmctr := false
  fGammaEnable := false
  fVscroll := false
  madctlFamilyDefault := 0x00
  invFamilyDefault := false
  ovBgrSwap := false
  ovAxisExchange := false
  ovHatRotate := false
  ovRotate180 := false
  ovInvert := false
  hatRotMask := 0x00
  madctlBgr := 0x08
  madctlMv := 0x20
  madctlMx := 0x40
  madctlMy := 0x80
  opc := Opcodes.assumed
  argGamset := 0x02
  argDgmen := 0x04
  argColmod := 0x05
  argFrmctr1 := [0x06, 0x01, 0x01]
  padScalar16 := true
  finalXEnd := h - 1
  finalYEnd := ah - 1
  t := Delays.assumed
  pinSpace := List.range 64

/-- The configuration `State.reset` carries: that of program P1 of `95_test_vectors.md`, the assumed configuration
with a 2 by 2 panel on one line and the default bus mode. DESIGN CHOICE (log 2). -/
def Config.atReset : Config := Config.assumed 2 2 2 1 .bmDefault

end Sys2Proof
end

