-- ==== Sys2Proof/Machine/Operands.lean ====
section
/-! DEFINITION. Operand assembly: byte splitting (R8), scalar and coordinate framing (R72 to R74, R76), and
their inverses, which a receiver that knows the configuration uses (R82). -/

namespace Sys2Proof

/-- `hi8(v) = v[15:8]` (R8). -/
def hi8 (v : Coord) : Byte := v.extractLsb' 8 8

/-- `lo8(v) = v[7:0]` (R8). -/
def lo8 (v : Coord) : Byte := v.extractLsb' 0 8

/-- The 16-bit coordinate of a natural that the configuration checks keep below 65536 (R54, R80). -/
def coordOfNat (v : Nat) : Coord := BitVec.ofNat 16 v

/-- Whether scalar arguments are preceded by a 0x00 filler (R72). -/
def padsScalar (cfg : Config) : Bool :=
  cfg.busMode == .bmBus16 && cfg.padScalar16

/-- `frameScalar` (R72). -/
def frameScalar (cfg : Config) (b : Byte) : List Byte :=
  if padsScalar cfg then [0x00, b] else [b]

/-- `frameScalars` (R73). -/
def frameScalars (cfg : Config) : List Byte → List Byte
  | [] => []
  | b :: bs => frameScalar cfg b ++ frameScalars cfg bs

/-- `frameCoord` (R74): big-endian, with fillers on the 16-bit bus, one byte in `BM_CURSOR8`, where the
operand range 0..255 makes `lo8 v` the value itself (log 15 for a value outside that range). -/
def frameCoord (cfg : Config) (v : Coord) : List Byte :=
  match cfg.busMode with
  | .bmDefault => [hi8 v, lo8 v]
  | .bmBus16   => [0x00, hi8 v, 0x00, lo8 v]
  | .bmCursor8 => [lo8 v]

/-- `coordPair`: start first, then end (R74). -/
def coordPair (cfg : Config) (a b : Coord) : List Byte :=
  frameCoord cfg a ++ frameCoord cfg b

/-- Whether a coordinate can be expressed in the bus width mode (R54, R80). -/
def coordFits (cfg : Config) (v : Coord) : Bool :=
  match cfg.busMode with
  | .bmCursor8 => decide (v.toNat ≤ 255)
  | .bmDefault => true
  | .bmBus16   => true

/-- Reads one framed scalar; `none` on a short list or a filler byte that is not 0x00. -/
def takeScalar (cfg : Config) (bytes : List Byte) : Option (Byte × List Byte) :=
  if padsScalar cfg then
    match bytes with
    | f :: b :: rest => if f = 0x00 then some (b, rest) else none
    | _ => none
  else
    match bytes with
    | b :: rest => some (b, rest)
    | [] => none

/-- Reads `m` framed scalars. -/
def takeScalars (cfg : Config) : Nat → List Byte → Option (List Byte × List Byte)
  | 0, bytes => some ([], bytes)
  | m + 1, bytes =>
    match takeScalar cfg bytes with
    | none => none
    | some (b, rest) =>
      match takeScalars cfg m rest with
      | none => none
      | some (bs, rest') => some (b :: bs, rest')

/-- Reads one framed coordinate; `none` on a short list or a filler byte that is not 0x00. -/
def takeCoord (cfg : Config) (bytes : List Byte) : Option (Coord × List Byte) :=
  match cfg.busMode with
  | .bmDefault =>
    match bytes with
    | hi :: lo :: rest => some (hi ++ lo, rest)
    | _ => none
  | .bmBus16 =>
    match bytes with
    | f :: hi :: g :: lo :: rest => if f = 0x00 ∧ g = 0x00 then some (hi ++ lo, rest) else none
    | _ => none
  | .bmCursor8 =>
    match bytes with
    | lo :: rest => some ((0#8 ++ lo : BitVec 16), rest)
    | [] => none

/-- Reads a coordinate pair, start then end. -/
def takePair (cfg : Config) (bytes : List Byte) : Option ((Coord × Coord) × List Byte) :=
  match takeCoord cfg bytes with
  | none => none
  | some (a, rest) =>
    match takeCoord cfg rest with
    | none => none
    | some (b, rest') => some ((a, b), rest')

/-- Drops `m` bytes that must all be 0x00: the payload of a pixel task (R102). -/
def takeZeros : Nat → List Byte → Option (List Byte)
  | 0, bytes => some bytes
  | _ + 1, [] => none
  | m + 1, b :: rest => if b = 0x00 then takeZeros m rest else none

end Sys2Proof
end

