-- ==== Sys2Proof/Machine/Flags.lean ====
section
/-! DEFINITION. The values the block derives from its configuration: MADCTL (R37), inversion (R38), the
chip-select assignment (R36), the vertical-scroll condition (R150), the task size (R101). The block has no
arithmetic flags and no condition codes (R40), so no instruction computes one. -/

namespace Sys2Proof

/-- `m xor mask` when the override is set: "each override is a pure bit toggle" (R37). -/
def toggleIf (b : Bool) (mask m : Byte) : Byte := if b then m ^^^ mask else m

/-- `computeMadctl(cfg)` in the document's fixed precedence (R37). -/
def computeMadctl (cfg : Config) : Byte :=
  toggleIf cfg.ovRotate180 (cfg.madctlMx ||| cfg.madctlMy) <|
    toggleIf cfg.ovHatRotate cfg.hatRotMask <|
      toggleIf cfg.ovAxisExchange cfg.madctlMv <|
        toggleIf cfg.ovBgrSwap cfg.madctlBgr cfg.madctlFamilyDefault

/-- `invDefault(cfg)` (R38). -/
def invDefault (cfg : Config) : Bool :=
  if cfg.fGammaEnable then true else cfg.invFamilyDefault

/-- `invEffective(cfg)` (R38). -/
def invEffective (cfg : Config) : Bool := xor (invDefault cfg) cfg.ovInvert

/-- `CS_INIT` (R36). -/
def csInit (cfg : Config) : Line :=
  if cfg.n = 1 ∧ cfg.secondaryCsHw = true then 1 else 0

/-- `csOf(k) = CS_INIT xor (k mod 2)` (R36). -/
def csOf (cfg : Config) (k : Nat) : Line := csInit cfg ^^^ BitVec.ofNat 1 (k % 2)

/-- `vscrollOn(cfg, m)` (R150): row-address order swapped and a memory area taller than the visible one. -/
def vscrollOn (cfg : Config) (m : Byte) : Bool :=
  cfg.fVscroll && (m &&& cfg.madctlMy) != 0 && decide (cfg.ah > cfg.h)

/-- The size in bytes of every pixel task: one row of the window (R101). -/
def taskSize (cfg : Config) : Nat := cfg.w * cfg.bppBytes

end Sys2Proof
end

