-- ==== Sys2Proof/Machine/ConfigChecks.lean ====
section
/-! DEFINITION. Configuration well-formedness: the ten checks K1 to K10 of rule R176, in table order. -/

namespace Sys2Proof

/-- K1 GEOMETRY. -/
def checkGeometry (cfg : Config) : Bool :=
  decide (1 ≤ cfg.w ∧ cfg.w ≤ 65536 ∧ 1 ≤ cfg.h ∧ cfg.h ≤ cfg.ah ∧ cfg.ah ≤ 65536)

/-- K2 FINAL_RANGE. -/
def checkFinalRange (cfg : Config) : Bool :=
  decide (cfg.finalXEnd ≤ 65535 ∧ cfg.finalYEnd ≤ 65535)

/-- K3 CURSOR8_RANGE. -/
def checkCursor8Range (cfg : Config) : Bool :=
  cfg.busMode != .bmCursor8 ||
    decide (cfg.w ≤ 256 ∧ cfg.ah ≤ 256 ∧ cfg.finalXEnd ≤ 255 ∧ cfg.finalYEnd ≤ 255)

/-- K4 PANEL_COUNT. -/
def checkPanelCount (cfg : Config) : Bool := decide (cfg.n = 1 ∨ cfg.n = 2)

/-- K5 BPP. -/
def checkBpp (cfg : Config) : Bool := decide (1 ≤ cfg.bppBytes)

/-- K6 VSCROLL_OFFSET. -/
def checkVscrollOffset (cfg : Config) : Bool :=
  !vscrollOn cfg (computeMadctl cfg) || decide (cfg.w ≤ cfg.ah)

/-- Exactly one bit of the byte is set (K7). -/
def oneHot (b : Byte) : Bool :=
  b == 0x01 || b == 0x02 || b == 0x04 || b == 0x08 || b == 0x10 || b == 0x20 || b == 0x40 || b == 0x80

/-- No two entries of the list are equal. -/
def allDistinct : List Byte → Bool
  | [] => true
  | b :: bs => bs.all (fun c => b != c) && allDistinct bs

/-- K7 MADCTL_MASKS. -/
def checkMadctlMasks (cfg : Config) : Bool :=
  let masks := [cfg.madctlBgr, cfg.madctlMv, cfg.madctlMx, cfg.madctlMy]
  masks.all oneHot && allDistinct masks

/-- The fifteen opcode values in the order of R78's table. -/
def Opcodes.toList (o : Opcodes) : List Byte :=
  [o.swreset, o.slpout, o.noron, o.invoff, o.invon, o.gamset, o.dispon, o.caset, o.raset, o.ramwr,
    o.madctl, o.vscrsadd, o.colmod, o.frmctr1, o.dgmen]

/-- K8 OPCODES: the fifteen values are pairwise distinct. -/
def checkOpcodes (cfg : Config) : Bool := allDistinct cfg.opc.toList

/-- K9 CLKDIV. -/
def checkClkdiv (cfg : Config) : Bool :=
  decide (cfg.slowDiv < 2 ^ cfg.clkDivBits ∧ cfg.targetDiv < 2 ^ cfg.clkDivBits)

/-- A configured pin is in `PIN_SPACE`; an absent one is no pin. -/
def pinExists (cfg : Config) : Option Pin → Bool
  | none => true
  | some p => cfg.pinSpace.contains p

/-- K10 PINS. -/
def checkPins (cfg : Config) : Bool :=
  pinExists cfg cfg.resetPin && pinExists cfg cfg.backlightPin &&
    (cfg.resetPin.isNone || cfg.resetPin != cfg.backlightPin)

/-- The ten checks with their reasons, in the order of R176's table. -/
def configChecks (cfg : Config) : List (RefuseReason × Bool) :=
  [(.rfGeometry, checkGeometry cfg), (.rfFinalRange, checkFinalRange cfg),
    (.rfCursor8Range, checkCursor8Range cfg), (.rfPanelCount, checkPanelCount cfg),
    (.rfBpp, checkBpp cfg), (.rfVscrollOffset, checkVscrollOffset cfg),
    (.rfMadctlMasks, checkMadctlMasks cfg), (.rfOpcodes, checkOpcodes cfg),
    (.rfClkdiv, checkClkdiv cfg), (.rfPins, checkPins cfg)]

/-- The reason of the first entry whose check fails. -/
def firstFailed : List (RefuseReason × Bool) → Option RefuseReason
  | [] => none
  | (r, ok) :: rest => if ok then firstFailed rest else some r

/-- `firstFailedCheck(cfg)`: the first failed check in table order, `none` when every check passes (R176, R181). -/
def firstFailedCheck (cfg : Config) : Option RefuseReason := firstFailed (configChecks cfg)

/-- `wellFormed(cfg)`: the conjunction of the ten checks (R176). -/
def wellFormed (cfg : Config) : Bool := (configChecks cfg).all (fun c => c.2)

end Sys2Proof
end

