-- ==== Sys2Proof/Syntax.lean ====
section
/-! DEFINITION. The instructions: one constructor per row of spec/opcode_table.json, the fifteen controller
commands of rule R78 and the four host operations of rule R85. A command's chip-select line is the register
`cs` (R26), not a field of the command (log 11). -/

namespace Sys2Proof

/-- The nineteen instructions. -/
inductive Instr
  /-- SWRESET, F_NONE (R141). -/
  | swreset
  /-- SLPOUT, F_NONE (R142). -/
  | slpout
  /-- NORON, F_NONE (R149). -/
  | noron
  /-- INVOFF, F_NONE (R147). -/
  | invoff
  /-- INVON, F_NONE (R148). -/
  | invon
  /-- GAMSET, F_SCALAR1 (R143). -/
  | gamset (b : Byte)
  /-- DISPON, F_NONE (R152). -/
  | dispon
  /-- CASET, F_COORD2: column start, column end (R90). -/
  | caset (xs xe : Coord)
  /-- RASET, F_COORD2: row start, row end (R91). -/
  | raset (ys ye : Coord)
  /-- RAMWR, F_TASK: a pixel task of `W * BPP_BYTES` zero bytes (R100). -/
  | ramwr
  /-- MADCTL, F_SCALAR1 (R146). -/
  | madctl (m : Byte)
  /-- VSCRSADD, F_COORD1: the row offset (R150). -/
  | vscrsadd (off : Coord)
  /-- COLMOD, F_SCALAR1 (R145). -/
  | colmod (b : Byte)
  /-- FRMCTR1, F_SCALARN: the byte list (R151). -/
  | frmctr1 (args : List Byte)
  /-- DGMEN, F_SCALAR1 (R144). -/
  | dgmen (b : Byte)
  /-- OP_INIT, host-operation code 0 (R166). -/
  | opInit
  /-- OP_DISPLAY_ON, host-operation code 1 (R167). -/
  | opDisplayOn
  /-- OP_DISPLAY_OFF, host-operation code 2 (R168). -/
  | opDisplayOff
  /-- OP_DEINIT, host-operation code 3 (R169). -/
  | opDeinit
  deriving DecidableEq, Repr

end Sys2Proof
end

