-- ==== Sys2Proof/WellFormed.lean ====
section
/-! DEFINITION. Well-formed instructions: the operand ranges of rules R54, R75, R80. The configuration's own
checks are in Machine/ConfigChecks.lean. -/

namespace Sys2Proof

/-- An instruction whose operands its encoding can carry under the configuration: coordinates that fit the bus
width mode (R80), and as many frame-rate bytes as `ARG_FRMCTR1` has (R75, R82). -/
def Instr.wf (cfg : Config) : Instr → Bool
  | .swreset | .slpout | .noron | .invoff | .invon | .dispon | .ramwr => true
  | .gamset _ | .madctl _ | .colmod _ | .dgmen _ => true
  | .caset xs xe => coordFits cfg xs && coordFits cfg xe
  | .raset ys ye => coordFits cfg ys && coordFits cfg ye
  | .vscrsadd off => coordFits cfg off
  | .frmctr1 args => args.length == cfg.argFrmctr1.length
  | .opInit | .opDisplayOn | .opDisplayOff | .opDeinit => true

/-- The instruction is a host operation, not a controller command. -/
def Instr.isHostOp : Instr → Bool
  | .opInit | .opDisplayOn | .opDisplayOff | .opDeinit => true
  | .swreset | .slpout | .noron | .invoff | .invon | .dispon | .ramwr => false
  | .gamset _ | .madctl _ | .colmod _ | .dgmen _ => false
  | .caset _ _ | .raset _ _ | .vscrsadd _ | .frmctr1 _ => false

end Sys2Proof
end

