-- ==== Sys2Proof/Decode.lean ====
section
/-! DEFINITION. The decoder of a recorded transfer and of the host-operation input, total and rejecting by name
(rules R70 to R82, R85), and after it the encoder, from the same tables. -/

namespace Sys2Proof

/-- The fifteen controller commands, the rows of R78's opcode map. -/
inductive Cmd
  | swreset | slpout | noron | invoff | invon | gamset | dispon | caset | raset | ramwr
  | madctl | vscrsadd | colmod | frmctr1 | dgmen
  deriving DecidableEq, Repr

/-- Why a transfer is rejected. -/
inductive DecodeError
  /-- No opcode byte. -/
  | noOpcode
  /-- The opcode byte is none of the fifteen configured values (R79). -/
  | reservedOpcode (b : Byte)
  /-- The argument bytes are too few, or a filler byte is not 0x00 (R72, R74, R75; log 26). -/
  | badArguments (c : Cmd)
  /-- The pixel-task payload is too short or not all 0x00 (R81, R102; log 26). -/
  | badPayload
  /-- Bytes are left after the one transfer. -/
  | trailingBytes
  deriving DecidableEq, Repr

/-- The two places an instruction is seen: a transfer of bytes on the bus (R70), and the 2-bit host-operation
input (R85). Their codes overlap, so they are kept apart (log 13). -/
inductive Encoded
  | transfer (bytes : List Byte)
  | hostOp (code : BitVec 2)
  deriving DecidableEq, Repr

/-- The opcode map (R78), each value the configured parameter. -/
def opcodeRows (cfg : Config) : List (Byte × Cmd) :=
  [(cfg.opc.swreset, .swreset), (cfg.opc.slpout, .slpout), (cfg.opc.noron, .noron),
    (cfg.opc.invoff, .invoff), (cfg.opc.invon, .invon), (cfg.opc.gamset, .gamset),
    (cfg.opc.dispon, .dispon), (cfg.opc.caset, .caset), (cfg.opc.raset, .raset),
    (cfg.opc.ramwr, .ramwr), (cfg.opc.madctl, .madctl), (cfg.opc.vscrsadd, .vscrsadd),
    (cfg.opc.colmod, .colmod), (cfg.opc.frmctr1, .frmctr1), (cfg.opc.dgmen, .dgmen)]

/-- The first row of the list with the opcode byte. DESIGN CHOICE (log 38): of two equal parameters, which K8 refuses, the
first in the table counts. -/
def findRow (b : Byte) : List (Byte × Cmd) → Option Cmd
  | [] => none
  | (o, c) :: rows => if o = b then some c else findRow b rows

/-- The command of an opcode byte; none for a reserved byte (R79). -/
def cmdOfByte (cfg : Config) (b : Byte) : Option Cmd := findRow b (opcodeRows cfg)

/-- A command without arguments (F_NONE). -/
def decodeNone (i : Instr) (rest : List Byte) : Except DecodeError (Instr × List Byte) := .ok (i, rest)

/-- A command with one scalar argument (F_SCALAR1). -/
def decodeScalar (cfg : Config) (c : Cmd) (mk : Byte → Instr) (rest : List Byte) :
    Except DecodeError (Instr × List Byte) :=
  match takeScalar cfg rest with
  | some (b, rest') => .ok (mk b, rest')
  | none => .error (.badArguments c)

/-- A command with a coordinate pair (F_COORD2). -/
def decodePair (cfg : Config) (c : Cmd) (mk : Coord → Coord → Instr) (rest : List Byte) :
    Except DecodeError (Instr × List Byte) :=
  match takePair cfg rest with
  | some ((a, b), rest') => .ok (mk a b, rest')
  | none => .error (.badArguments c)

/-- A command with one coordinate (F_COORD1). -/
def decodeCoord (cfg : Config) (c : Cmd) (mk : Coord → Instr) (rest : List Byte) :
    Except DecodeError (Instr × List Byte) :=
  match takeCoord cfg rest with
  | some (v, rest') => .ok (mk v, rest')
  | none => .error (.badArguments c)

/-- The scalar list of FRMCTR1 (F_SCALARN), as long as `ARG_FRMCTR1` (R82). -/
def decodeScalars (cfg : Config) (c : Cmd) (mk : List Byte → Instr) (rest : List Byte) :
    Except DecodeError (Instr × List Byte) :=
  match takeScalars cfg cfg.argFrmctr1.length rest with
  | some (bs, rest') => .ok (mk bs, rest')
  | none => .error (.badArguments c)

/-- The payload of RAMWR (F_TASK): `W * BPP_BYTES` zero bytes (R81, R102; log 14). -/
def decodePayload (cfg : Config) (rest : List Byte) : Except DecodeError (Instr × List Byte) :=
  match takeZeros (taskSize cfg) rest with
  | some rest' => .ok (.ramwr, rest')
  | none => .error .badPayload

/-- The arguments of a command, by its form (R75). -/
def decodeArgs (cfg : Config) (c : Cmd) (rest : List Byte) : Except DecodeError (Instr × List Byte) :=
  match c with
  | .swreset  => decodeNone .swreset rest
  | .slpout   => decodeNone .slpout rest
  | .noron    => decodeNone .noron rest
  | .invoff   => decodeNone .invoff rest
  | .invon    => decodeNone .invon rest
  | .gamset   => decodeScalar cfg .gamset .gamset rest
  | .dispon   => decodeNone .dispon rest
  | .caset    => decodePair cfg .caset .caset rest
  | .raset    => decodePair cfg .raset .raset rest
  | .ramwr    => decodePayload cfg rest
  | .madctl   => decodeScalar cfg .madctl .madctl rest
  | .vscrsadd => decodeCoord cfg .vscrsadd .vscrsadd rest
  | .colmod   => decodeScalar cfg .colmod .colmod rest
  | .frmctr1  => decodeScalars cfg .frmctr1 .frmctr1 rest
  | .dgmen    => decodeScalar cfg .dgmen .dgmen rest

/-- Reads one transfer off the front of a byte stream and gives the rest (R82). -/
def decodeTransfer (cfg : Config) (bytes : List Byte) : Except DecodeError (Instr × List Byte) :=
  match bytes with
  | [] => .error .noOpcode
  | o :: rest =>
    match cmdOfByte cfg o with
    | some c => decodeArgs cfg c rest
    | none => .error (.reservedOpcode o)

/-- The host operation of a 2-bit code; all four are defined (R85). -/
def decodeHostOp (code : BitVec 2) : Instr :=
  if code = 0 then .opInit
  else if code = 1 then .opDisplayOn
  else if code = 2 then .opDisplayOff
  else .opDeinit

/-- Decodes exactly one encoded instruction. -/
def decode (cfg : Config) (e : Encoded) : Except DecodeError Instr :=
  match e with
  | .hostOp code => .ok (decodeHostOp code)
  | .transfer bytes =>
    match decodeTransfer cfg bytes with
    | .ok (i, []) => .ok i
    | .ok (_, _ :: _) => .error .trailingBytes
    | .error r => .error r

/-! The encoder. -/

/-- The bytes after the opcode byte, framed for the bus width mode (R72 to R75); RAMWR's payload (R81). -/
def encodeArgs (cfg : Config) : Instr → List Byte
  | .swreset | .slpout | .noron | .invoff | .invon | .dispon => []
  | .gamset b | .colmod b | .dgmen b => frameScalar cfg b
  | .madctl m => frameScalar cfg m
  | .caset xs xe => coordPair cfg xs xe
  | .raset ys ye => coordPair cfg ys ye
  | .vscrsadd off => frameCoord cfg off
  | .frmctr1 args => frameScalars cfg args
  | .ramwr => List.replicate (taskSize cfg) 0x00
  | .opInit | .opDisplayOn | .opDisplayOff | .opDeinit => []

/-- The encoding of an instruction: opcode byte then arguments (R70), or the 2-bit code (R85). -/
def encode (cfg : Config) : Instr → Encoded
  | .swreset => .transfer (cfg.opc.swreset :: encodeArgs cfg .swreset)
  | .slpout => .transfer (cfg.opc.slpout :: encodeArgs cfg .slpout)
  | .noron => .transfer (cfg.opc.noron :: encodeArgs cfg .noron)
  | .invoff => .transfer (cfg.opc.invoff :: encodeArgs cfg .invoff)
  | .invon => .transfer (cfg.opc.invon :: encodeArgs cfg .invon)
  | .gamset b => .transfer (cfg.opc.gamset :: encodeArgs cfg (.gamset b))
  | .dispon => .transfer (cfg.opc.dispon :: encodeArgs cfg .dispon)
  | .caset xs xe => .transfer (cfg.opc.caset :: encodeArgs cfg (.caset xs xe))
  | .raset ys ye => .transfer (cfg.opc.raset :: encodeArgs cfg (.raset ys ye))
  | .ramwr => .transfer (cfg.opc.ramwr :: encodeArgs cfg .ramwr)
  | .madctl m => .transfer (cfg.opc.madctl :: encodeArgs cfg (.madctl m))
  | .vscrsadd off => .transfer (cfg.opc.vscrsadd :: encodeArgs cfg (.vscrsadd off))
  | .colmod b => .transfer (cfg.opc.colmod :: encodeArgs cfg (.colmod b))
  | .frmctr1 args => .transfer (cfg.opc.frmctr1 :: encodeArgs cfg (.frmctr1 args))
  | .dgmen b => .transfer (cfg.opc.dgmen :: encodeArgs cfg (.dgmen b))
  | .opInit => .hostOp 0
  | .opDisplayOn => .hostOp 1
  | .opDisplayOff => .hostOp 2
  | .opDeinit => .hostOp 3

/-- The bytes of a transfer; empty for a host operation, which is no transfer. -/
def transferBytes (cfg : Config) (i : Instr) : List Byte :=
  match encode cfg i with
  | .transfer bytes => bytes
  | .hostOp _ => []

/-! Instruction words numbered as spec/opcode_table.json numbers them. -/

/-- The `m` low bytes of a word, the first byte in bits 7..0. -/
def wordBytes : Nat → Nat → List Byte
  | 0, _ => []
  | m + 1, w => BitVec.ofNat 8 w :: wordBytes m (w / 256)

/-- Enough zero bytes for the operands of any transfer under the configuration. -/
def zeroOperands (cfg : Config) : List Byte :=
  List.replicate (8 + 2 * cfg.argFrmctr1.length + taskSize cfg) 0x00

/-- The instruction of a table word under a configuration. A word narrower than a byte is a host-operation code
of 2 bits. A word of whole bytes is a transfer, with zero operand bytes above it; a single byte 0 to 3 that is
no configured opcode is the host-operation code, zero-extended (log 13). -/
def instrOfTableWord (cfg : Config) (nbits w : Nat) : Option Instr :=
  if nbits < 8 then
    if w < 4 then some (decodeHostOp (BitVec.ofNat 2 w)) else none
  else
    match decodeTransfer cfg (wordBytes (nbits / 8) w ++ zeroOperands cfg) with
    | .ok (i, _) => some i
    | .error _ =>
      if nbits = 8 ∧ w < 4 then some (decodeHostOp (BitVec.ofNat 2 w)) else none

/-- The instruction the decoder reads from a table word, under the configuration of `State.reset`. -/
def decodeTableWord (nbits w : Nat) : Option Instr := instrOfTableWord Config.atReset nbits w

end Sys2Proof
end

