-- ==== Sys2Proof/Machine/FsmState.lean ====
section
/-! DEFINITION. The FSM states and their 5-bit codes (rules R22, R23). -/

namespace Sys2Proof.Machine

/-- The twenty-two states of R22. -/
inductive FsmState
  | idle | reset | slowclk | pBegin | swreset | slpout | gamma | pixfmt | addrmode | invert | partoff
  | vscroll | frmrate | dispon | bklt | clrRow | clrFinal | pEnd | restore | ready | dStart | dNext
  deriving DecidableEq, Repr

/-- The code of a state (R22's table). -/
def FsmState.code : FsmState → BitVec 5
  | .idle => 0
  | .reset => 1
  | .slowclk => 2
  | .pBegin => 3
  | .swreset => 4
  | .slpout => 5
  | .gamma => 6
  | .pixfmt => 7
  | .addrmode => 8
  | .invert => 9
  | .partoff => 10
  | .vscroll => 11
  | .frmrate => 12
  | .dispon => 13
  | .bklt => 14
  | .clrRow => 15
  | .clrFinal => 16
  | .pEnd => 17
  | .restore => 18
  | .ready => 19
  | .dStart => 20
  | .dNext => 21

/-- All states, in code order. -/
def FsmState.all : List FsmState :=
  [.idle, .reset, .slowclk, .pBegin, .swreset, .slpout, .gamma, .pixfmt, .addrmode, .invert, .partoff,
    .vscroll, .frmrate, .dispon, .bklt, .clrRow, .clrFinal, .pEnd, .restore, .ready, .dStart, .dNext]

/-- The state a code names; codes 22 to 31 name none (R23). -/
def FsmState.ofCode (c : BitVec 5) : Option FsmState := FsmState.all.find? (fun S => S.code == c)

/-- The quiescent states, in which the block waits for a host operation (R14, R165). -/
def FsmState.quiescent : FsmState → Bool
  | .idle | .ready => true
  | .reset | .slowclk | .pBegin | .swreset | .slpout | .gamma | .pixfmt | .addrmode | .invert | .partoff
  | .vscroll | .frmrate | .dispon | .bklt | .clrRow | .clrFinal | .pEnd | .restore | .dStart | .dNext => false

end Sys2Proof.Machine
end

