-- ==== Sys2Proof/Machine/Memory.lean ====
section
/-! DEFINITION. The one memory the block holds: the payload buffer of the live pixel task (rules R53, R55), a
list of (offset, byte) pairs in one canonical form. A byte nothing has written has no value (log 16). -/

namespace Sys2Proof.Machine

/-- Offsets and their bytes, offsets strictly rising. -/
abbrev Memory := List Host.Cell

/-- The canonical form: every offset is smaller than all that follow it. An unlisted offset reads as no value, so
no entry equals what it would read as unlisted. -/
def Memory.wf : Memory → Bool
  | [] => true
  | (a, _) :: m => m.all (fun c => decide (a < c.1)) && Memory.wf m

/-- Reads one byte; `none` where nothing has been written. -/
def Memory.read : Memory → Nat → Option Byte
  | [], _ => none
  | (a, v) :: m, x => if x = a then some v else Memory.read m x

/-- Writes one byte. -/
def Memory.write : Memory → Nat → Byte → Memory
  | [], x, v => [(x, v)]
  | (a, u) :: m, x, v =>
    if x < a then (x, v) :: (a, u) :: m
    else if x = a then (a, v) :: m
    else (a, u) :: Memory.write m x v

/-- `MemWrite(task, off, n, v)`: n bytes of value v from offset off (R11). -/
def Memory.writeRange (m : Memory) (off : Nat) : Nat → Byte → Memory
  | 0, _ => m
  | n + 1, v => Memory.write (Memory.writeRange m (off + 1) n v) off v

end Sys2Proof.Machine
end

