-- ==== Sys2Proof/Machine/State.lean ====
section
/-! DEFINITION. The state of the block (rules R20 to R42), its events (R50), and the reasons a step stops. -/

namespace Sys2Proof.Machine

/-- The bus events, a closed alphabet (R50). A GPIO mode event always sets digital output. -/
inductive Event
  /-- `GPIO_MODE(p, OUT)`. -/
  | gpioMode (p : Pin)
  /-- `GPIO_SET(p)`. -/
  | gpioSet (p : Pin)
  /-- `GPIO_CLR(p)`. -/
  | gpioClr (p : Pin)
  /-- `DELAY(t)`: at least t microseconds (R12). -/
  | delay (t : Nat)
  /-- `CLKDIV(d)`. -/
  | clkdiv (d : Nat)
  /-- `BARRIER` (R62). -/
  | barrier
  /-- `BEGIN(c)`. -/
  | beginTx (c : Line)
  /-- `END(c)`. -/
  | endTx (c : Line)
  /-- `XFER(c, o, a)`. -/
  | xfer (c : Line) (o : Byte) (a : List Byte)
  /-- `TASK_ALLOC(c, n)`. -/
  | taskAlloc (c : Line) (n : Nat)
  /-- `TASK_TAG(o)`. -/
  | taskTag (o : Byte)
  /-- `TASK_FILL0`. -/
  | taskFill0
  /-- `TASK_COMMIT`. -/
  | taskCommit
  /-- `TASK_EXEC`. -/
  | taskExec
  /-- `TASK_RELEASE`. -/
  | taskRelease
  deriving DecidableEq, Repr

/-- The shadow of the bus-clock divisor register: a natural or `UNKNOWN` (R30). -/
inductive ClockShadow
  | unknown
  | div (d : Nat)
  deriving DecidableEq, Repr

/-- The shadow of the backlight level (R35). -/
inductive Backlight
  | undriven | low | high
  deriving DecidableEq, Repr

/-- The live pixel task: its line, byte size, command byte and payload buffer (R55, R81). The command byte is
absent between `TASK_ALLOC` and `TASK_TAG`. -/
structure PixelTask where
  line : Line
  size : Nat
  cmd  : Option Byte
  buf  : Memory
  deriving DecidableEq, Repr

/-- The state of the block, plain data. -/
structure State where
  /-- The configuration record (R20), fixed for the run; no step writes it (log 1). -/
  cfg : Config
  /-- The host-operation input: the codes the host presents, one at a time, the head first (R85, R165; log 4). -/
  hostOps : List (BitVec 2)
  /-- `s.st`, the FSM state register (R22). -/
  st : BitVec 5
  /-- `s.k`, the panel index (R25). -/
  k : BitVec 2
  /-- `s.cs`, the chip-select line served (R26). -/
  cs : Line
  /-- `s.y`, the row counter (R27). -/
  y : Coord
  /-- `s.madctl` (R28). -/
  madctl : Byte
  /-- `s.inv` (R29). -/
  inv : Bool
  /-- `s.clk` (R30). -/
  clk : ClockShadow
  /-- `s.ret` (R31). -/
  ret : BitVec 1
  /-- `s.qret` (R32). -/
  qret : BitVec 1
  /-- `s.taskLive` (R33). -/
  taskLive : Bool
  /-- `s.open[0]` (R34). -/
  open0 : Bool
  /-- `s.open[1]` (R34). -/
  open1 : Bool
  /-- `s.bl` (R35). -/
  bl : Backlight
  /-- The live pixel task with its payload buffer, or no task (R53, R55). -/
  task : Option PixelTask
  /-- The events emitted so far, oldest first (R9, R51; log 9). -/
  trace : List Event
  /-- The run's refused mark, or no mark (R173, R175). -/
  refusedMark : Option RefuseReason
  deriving DecidableEq, Repr

/-- Why a step has no next state. None of these is an error the block signals: each is a place where the spec
gives no transition, so the model is stuck there. -/
inductive Fault
  /-- Raised by `step` in a quiescent state with no operation presented: "a quiescent state has no step", the run
  has reached its end (R165, R173). Safe (log 5). -/
  | noOperation
  /-- Raised by `step` when `st` holds a code from 22 to 31 (R23, U1). Safe (log 8). -/
  | unusedCode
  /-- Raised by a host operation's meaning in a state that is not quiescent: "no transition exists" (R165, U4).
  Safe (log 7). -/
  | operationNotRead
  deriving DecidableEq, Repr

/-- Why an instruction has no meaning in the model. -/
inductive Refusal
  /-- Raised by an arm of `exec` whose instruction has no meaning yet; no arm does. Safe. -/
  | notModelled (mnemonic : String)
  deriving DecidableEq, Repr

/-- The block at the start of the model (R41, R195) under a given configuration. The spec gives `k`, `cs`, `y`,
`madctl`, `inv`, `ret` and `qret` no reset value; they are zero here. DESIGN CHOICE (log 3). -/
def State.resetWith (cfg : Config) : State where
  cfg := cfg
  hostOps := []
  st := 0
  k := 0
  cs := 0
  y := 0
  madctl := 0
  inv := false
  clk := .unknown
  ret := 0
  qret := 0
  taskLive := false
  open0 := false
  open1 := false
  bl := .undriven
  task := none
  trace := []
  refusedMark := none

/-- The machine right after reset, with the configuration of log 2. -/
def State.reset : State := State.resetWith Config.atReset

end Sys2Proof.Machine
end

