-- ==== Sys2Proof/Machine/Ops.lean ====
section
/-! DEFINITION. The operations the meanings share: emitting bus events with the shadow registers they write,
moving the FSM, and the one abnormal outcome of the block. -/

namespace Sys2Proof.Machine

/-! Pixel task. -/

/-- A freshly allocated task: n payload bytes, none written yet (R50, R55). -/
def allocTask (c : Line) (n : Nat) : PixelTask :=
  { line := c, size := n, cmd := none, buf := [] }

/-- `TASK_TAG(o)`: the live task's command byte becomes o (R50). -/
def tagTask (o : Byte) (t : PixelTask) : PixelTask := { t with cmd := some o }

/-- `TASK_FILL0`: `MemWrite(task, 0, n, 0x00)` (R102). -/
def zeroFill (t : PixelTask) : PixelTask := { t with buf := Memory.writeRange t.buf 0 t.size 0x00 }

/-! Events. -/

/-- Sets or clears the bracket shadow of line c (R34). -/
def setOpen (c : Line) (b : Bool) (s : State) : State :=
  if c = 0 then { s with open0 := b } else { s with open1 := b }

/-- The backlight shadow after a level event on pin p (R35). -/
def setLevel (p : Pin) (l : Backlight) (s : State) : State :=
  if s.cfg.backlightPin = some p then { s with bl := l } else s

/-- What an event writes in the block: the clock shadow (R30), the live task (R33, R55), the bracket shadows (R34),
the backlight shadow (R35). The other events write no register. -/
def shadow (e : Event) (s : State) : State :=
  match e with
  | .gpioSet p => setLevel p .high s
  | .gpioClr p => setLevel p .low s
  | .clkdiv d => { s with clk := .div d }
  | .beginTx c => setOpen c true s
  | .endTx c => setOpen c false s
  | .taskAlloc c n => { s with taskLive := true, task := some (allocTask c n) }
  | .taskTag o => { s with task := s.task.map (tagTask o) }
  | .taskFill0 => { s with task := s.task.map zeroFill }
  | .taskRelease => { s with taskLive := false, task := none }
  | .gpioMode _ | .delay _ | .barrier | .xfer _ _ _ | .taskCommit | .taskExec => s

/-- `emit(e)`: appends the event to the output and updates the shadow registers (R9, R51). -/
def emit (e : Event) (s : State) : State := shadow e { s with trace := s.trace ++ [e] }

/-- `emit(l)`: each event in order (R9). -/
def emitAll : List Event → State → State
  | [], s => s
  | e :: es, s => emitAll es (emit e s)

/-! Registers. -/

/-- `s.st <- S` (R10, R22). -/
def goto (S : FsmState) (s : State) : State := { s with st := S.code }

/-- The state is quiescent: it waits for a host operation (R14, R165). -/
def isQuiescent (s : State) : Bool :=
  s.st == FsmState.idle.code || s.st == FsmState.ready.code

/-! Commands (R140). -/

/-- `XFER(s.cs, o, args)` and nothing else. -/
def sendCommand (o : Byte) (args : List Byte) (s : State) : State := emit (.xfer s.cs o args) s

/-- `XFER(s.cs, o, args)`, then the command's mandatory `DELAY`. -/
def sendCommandThenWait (o : Byte) (args : List Byte) (t : Nat) (s : State) : State :=
  emit (.delay t) (sendCommand o args s)

/-! The abnormal outcome. The block has no trap entry and no return from one (R182, R183). -/

/-- `raise Refuse(reason)` (R175): no event, no register changed, the run marked. A run that is already marked
keeps its first mark, "no later step clears the mark" (log 19). -/
def raiseRefuse (r : RefuseReason) (s : State) : State :=
  { s with refusedMark := some (s.refusedMark.getD r) }

/-- The dispatch of a host operation (R165): read only in a quiescent state (U4, log 7); refused when the
configuration is not well-formed; otherwise the operation's body. -/
def dispatch (body : State → State) (s : State) : Host.Outcome State Fault Refusal :=
  if isQuiescent s then
    match firstFailedCheck s.cfg with
    | some r => .next (raiseRefuse r s)
    | none => .next (body s)
  else .fault .operationNotRead

/-- Runs `f` on a next state; a fault or a refusal ends the step. -/
def andThen (o : Host.Outcome State Fault Refusal) (f : State → Host.Outcome State Fault Refusal) :
    Host.Outcome State Fault Refusal :=
  match o with
  | .next s => f s
  | .fault r => .fault r
  | .refused r => .refused r

end Sys2Proof.Machine
end

