-- ==== Sys2Proof/Machine/Bringup.lean ====
section
/-! DEFINITION. The meanings of the twelve bring-up commands (`43_bringup_commands.md`). Each sends one transfer on
line `s.cs` and, where R140 lists one, the mandatory delay; none writes a register of the block. -/

namespace Sys2Proof.Machine

/-- SWRESET (R141). -/
def execSwreset (s : State) : Host.Outcome State Fault Refusal :=
  .next (sendCommandThenWait s.cfg.opc.swreset [] s.cfg.t.swreset s)

/-- SLPOUT (R142). -/
def execSlpout (s : State) : Host.Outcome State Fault Refusal :=
  .next (sendCommandThenWait s.cfg.opc.slpout [] s.cfg.t.slpout s)

/-- GAMSET (R143). -/
def execGamset (b : Byte) (s : State) : Host.Outcome State Fault Refusal :=
  .next (sendCommand s.cfg.opc.gamset (frameScalar s.cfg b) s)

/-- DGMEN (R144). -/
def execDgmen (b : Byte) (s : State) : Host.Outcome State Fault Refusal :=
  .next (sendCommand s.cfg.opc.dgmen (frameScalar s.cfg b) s)

/-- COLMOD (R145). -/
def execColmod (b : Byte) (s : State) : Host.Outcome State Fault Refusal :=
  .next (sendCommandThenWait s.cfg.opc.colmod (frameScalar s.cfg b) s.cfg.t.colmod s)

/-- MADCTL (R146). -/
def execMadctl (m : Byte) (s : State) : Host.Outcome State Fault Refusal :=
  .next (sendCommandThenWait s.cfg.opc.madctl (frameScalar s.cfg m) s.cfg.t.madctl s)

/-- INVOFF (R147). -/
def execInvoff (s : State) : Host.Outcome State Fault Refusal :=
  .next (sendCommand s.cfg.opc.invoff [] s)

/-- INVON (R148). -/
def execInvon (s : State) : Host.Outcome State Fault Refusal :=
  .next (sendCommand s.cfg.opc.invon [] s)

/-- NORON (R149). -/
def execNoron (s : State) : Host.Outcome State Fault Refusal :=
  .next (sendCommandThenWait s.cfg.opc.noron [] s.cfg.t.noron s)

/-- VSCRSADD (R150). -/
def execVscrsadd (off : Coord) (s : State) : Host.Outcome State Fault Refusal :=
  .next (sendCommand s.cfg.opc.vscrsadd (frameCoord s.cfg off) s)

/-- FRMCTR1 (R151). -/
def execFrmctr1 (args : List Byte) (s : State) : Host.Outcome State Fault Refusal :=
  .next (sendCommand s.cfg.opc.frmctr1 (frameScalars s.cfg args) s)

/-- DISPON (R152). -/
def execDispon (s : State) : Host.Outcome State Fault Refusal :=
  .next (sendCommandThenWait s.cfg.opc.dispon [] s.cfg.t.dispon s)

end Sys2Proof.Machine
end

