-- ==== Sys2Proof/Machine/HostOps.lean ====
section
/-! DEFINITION. The meanings of the four host operations (`44_power_backlight.md`), each over the one dispatch of
R165. -/

namespace Sys2Proof.Machine

/-- `DISPLAY_ON_BODY` (R167): the backlight pin high, if there is one; no mode event. -/
def displayOnBody (s : State) : State :=
  match s.cfg.backlightPin with
  | some p => emit (.gpioSet p) s
  | none => s

/-- `DISPLAY_OFF_BODY` (R168): the backlight pin low, if there is one. -/
def displayOffBody (s : State) : State :=
  match s.cfg.backlightPin with
  | some p => emit (.gpioClr p) s
  | none => s

/-- The body of OP_DEINIT (R165, R169): remembers the quiescent state it came from (R32) and moves to `D_START`. -/
def deinitBody (s : State) : State :=
  goto .dStart { s with qret := if s.st = FsmState.ready.code then 1 else 0 }

/-- OP_INIT (R166). -/
def execOpInit (s : State) : Host.Outcome State Fault Refusal := dispatch (goto .reset) s

/-- OP_DISPLAY_ON (R167). -/
def execOpDisplayOn (s : State) : Host.Outcome State Fault Refusal := dispatch displayOnBody s

/-- OP_DISPLAY_OFF (R168). -/
def execOpDisplayOff (s : State) : Host.Outcome State Fault Refusal := dispatch displayOffBody s

/-- OP_DEINIT (R169). -/
def execOpDeinit (s : State) : Host.Outcome State Fault Refusal := dispatch deinitBody s

end Sys2Proof.Machine
end

