-- ==== Sys2Proof/Machine/PixelWrite.lean ====
section
/-! DEFINITION. The meaning of RAMWR, the pixel-write task (`41_screen_clear.md`). -/

namespace Sys2Proof.Machine

/-- The six events of PIXROW on line c, in the fixed order of R103. -/
def pixrow (cfg : Config) (c : Line) : List Event :=
  [.taskAlloc c (taskSize cfg), .taskTag cfg.opc.ramwr, .taskFill0, .taskCommit, .taskExec, .taskRelease]

/-- RAMWR (R100): the whole lifecycle of one task, allocated, tagged, zero-filled, committed, executed, released. -/
def execRamwr (s : State) : Host.Outcome State Fault Refusal :=
  .next (emitAll (pixrow s.cfg s.cs) s)

end Sys2Proof.Machine
end

