-- ==== Sys2Proof/Machine/Window.lean ====
section
/-! DEFINITION. The meanings of the two window commands (`40_window_addressing.md`). -/

namespace Sys2Proof.Machine

/-- CASET (R90): the encoder checks nothing at run time. -/
def execCaset (xs xe : Coord) (s : State) : Host.Outcome State Fault Refusal :=
  .next (sendCommand s.cfg.opc.caset (coordPair s.cfg xs xe) s)

/-- RASET (R91). -/
def execRaset (ys ye : Coord) (s : State) : Host.Outcome State Fault Refusal :=
  .next (sendCommand s.cfg.opc.raset (coordPair s.cfg ys ye) s)

end Sys2Proof.Machine
end

