-- ==== Sys2Proof/Machine/Dispatch.lean ====
section
/-! DEFINITION. One arm per instruction, each a direct call of its meaning. -/

namespace Sys2Proof.Machine

def exec (i : Instr) (s : State) : Host.Outcome State Fault Refusal :=
  match i with
  | .swreset => Sys2Proof.Machine.execSwreset s
  | .slpout => Sys2Proof.Machine.execSlpout s
  | .noron => Sys2Proof.Machine.execNoron s
  | .invoff => Sys2Proof.Machine.execInvoff s
  | .invon => Sys2Proof.Machine.execInvon s
  | .gamset b => Sys2Proof.Machine.execGamset b s
  | .dispon => Sys2Proof.Machine.execDispon s
  | .caset xs xe => Sys2Proof.Machine.execCaset xs xe s
  | .raset ys ye => Sys2Proof.Machine.execRaset ys ye s
  | .ramwr => Sys2Proof.Machine.execRamwr s
  | .madctl m => Sys2Proof.Machine.execMadctl m s
  | .vscrsadd off => Sys2Proof.Machine.execVscrsadd off s
  | .colmod b => Sys2Proof.Machine.execColmod b s
  | .frmctr1 args => Sys2Proof.Machine.execFrmctr1 args s
  | .dgmen b => Sys2Proof.Machine.execDgmen b s
  | .opInit => Sys2Proof.Machine.execOpInit s
  | .opDisplayOn => Sys2Proof.Machine.execOpDisplayOn s
  | .opDisplayOff => Sys2Proof.Machine.execOpDisplayOff s
  | .opDeinit => Sys2Proof.Machine.execOpDeinit s

end Sys2Proof.Machine
end

