-- ==== Sys2Proof/Machine/Fsm.lean ====
section
/-! DEFINITION. The FSM: what each state issues and where it goes (`42_bringup_sequence.md`, rules R104, R105,
R165, R169, R170). A state's step is one step of the machine: its whole event list, then its register writes and
the move (R10, R24). -/

namespace Sys2Proof.Machine

/-! The command sequencer. -/

/-- The commands a state issues, in order (R1, R115); the states that only emit other events, or nothing, issue
none. -/
def commandsOf (S : FsmState) (s : State) : List Instr :=
  match S with
  | .swreset => if s.cfg.fNoSwreset then [] else [.swreset]
  | .slpout => [.slpout]
  | .gamma =>
    if s.cfg.fGammaEnable then [.dgmen s.cfg.argDgmen]
    else if s.cfg.fNoGamsetFrmctr then []
    else [.gamset s.cfg.argGamset]
  | .pixfmt => [.colmod s.cfg.argColmod]
  | .addrmode => [.madctl (computeMadctl s.cfg)]
  | .invert => if invEffective s.cfg then [.invon] else [.invoff]
  | .partoff => [.noron]
  | .vscroll =>
    if vscrollOn s.cfg s.madctl then [.vscrsadd (coordOfNat (s.cfg.ah - s.cfg.w))] else []
  | .frmrate => if s.cfg.fNoGamsetFrmctr then [] else [.frmctr1 s.cfg.argFrmctr1]
  | .dispon => [.dispon]
  | .clrRow =>
    [.caset 0 (coordOfNat (s.cfg.w - 1)), .raset s.y (coordOfNat (s.cfg.ah - 1)), .ramwr]
  | .clrFinal => [.caset 0 (coordOfNat s.cfg.finalXEnd), .raset 0 (coordOfNat s.cfg.finalYEnd)]
  | .idle | .reset | .slowclk | .pBegin | .bklt | .pEnd | .restore | .ready | .dStart | .dNext => []

/-- Runs a list of instructions in order. -/
def execAll : List Instr → State → Host.Outcome State Fault Refusal
  | [], s => .next s
  | i :: is, s => andThen (exec i s) (execAll is)

/-- Issues the state's commands, then `finish`: the register writes and the move of the state's rule. -/
def perform (S : FsmState) (finish : State → State) (s : State) : Host.Outcome State Fault Refusal :=
  andThen (execAll (commandsOf S s) s) (fun t => .next (finish t))

/-! Before the panels. -/

/-- `RSTPULSE p`, the seven events of the reset pulse (R84, R116). -/
def rstpulse (cfg : Config) (p : Pin) : List Event :=
  [.gpioMode p, .gpioSet p, .delay cfg.t.reset, .gpioClr p, .delay cfg.t.reset, .gpioSet p,
    .delay cfg.t.reset]

/-- The events of state `RESET`: none without a reset pin (R116). -/
def resetEvents (cfg : Config) : List Event :=
  match cfg.resetPin with
  | some p => rstpulse cfg p
  | none => []

/-- State `RESET` (R116). -/
def stepReset (s : State) : Host.Outcome State Fault Refusal :=
  .next (goto .slowclk (emitAll (resetEvents s.cfg) s))

/-- State `SLOWCLK` (R117). -/
def stepSlowclk (s : State) : Host.Outcome State Fault Refusal :=
  .next (goto .pBegin
    { emitAll [.clkdiv s.cfg.slowDiv, .barrier] s with k := 0, cs := csOf s.cfg 0 })

/-! The per-panel block. -/

/-- State `P_BEGIN` (R118). -/
def stepPBegin (s : State) : Host.Outcome State Fault Refusal :=
  .next (goto .swreset (emit (.beginTx s.cs) s))

/-- State `SWRESET` (R119). -/
def stepSwreset (s : State) : Host.Outcome State Fault Refusal :=
  perform .swreset (goto .slpout) s

/-- State `SLPOUT` (R120). -/
def stepSlpout (s : State) : Host.Outcome State Fault Refusal :=
  perform .slpout (goto .gamma) s

/-- State `GAMMA` (R121). -/
def stepGamma (s : State) : Host.Outcome State Fault Refusal :=
  perform .gamma (goto .pixfmt) s

/-- State `PIXFMT` (R122). -/
def stepPixfmt (s : State) : Host.Outcome State Fault Refusal :=
  perform .pixfmt (goto .addrmode) s

/-- State `ADDRMODE` (R123). -/
def stepAddrmode (s : State) : Host.Outcome State Fault Refusal :=
  perform .addrmode (fun t => goto .invert { t with madctl := computeMadctl s.cfg }) s

/-- State `INVERT` (R124). -/
def stepInvert (s : State) : Host.Outcome State Fault Refusal :=
  perform .invert (fun t => goto .partoff { t with inv := invEffective s.cfg }) s

/-- State `PARTOFF` (R125). -/
def stepPartoff (s : State) : Host.Outcome State Fault Refusal :=
  perform .partoff (goto .vscroll) s

/-- State `VSCROLL` (R126). -/
def stepVscroll (s : State) : Host.Outcome State Fault Refusal :=
  perform .vscroll (goto .frmrate) s

/-- State `FRMRATE` (R127). -/
def stepFrmrate (s : State) : Host.Outcome State Fault Refusal :=
  perform .frmrate (goto .dispon) s

/-- State `DISPON` (R128). -/
def stepDispon (s : State) : Host.Outcome State Fault Refusal :=
  perform .dispon (goto .bklt) s

/-- The events of state `BKLT`: none without a backlight pin (R129). -/
def backlightEvents (cfg : Config) : List Event :=
  match cfg.backlightPin with
  | some p => [.gpioMode p, .gpioSet p]
  | none => []

/-- State `BKLT` (R129). -/
def stepBklt (s : State) : Host.Outcome State Fault Refusal :=
  .next (goto .clrRow { emitAll (backlightEvents s.cfg) s with y := 0, ret := 0 })

/-- State `CLR_ROW` (R104): one row, then the next row or the final bounds. -/
def stepClrRow (s : State) : Host.Outcome State Fault Refusal :=
  perform .clrRow
    (fun t => if s.y.toNat + 1 < s.cfg.ah then { t with y := s.y + 1 } else goto .clrFinal t) s

/-- State `CLR_FINAL` (R105): the return through `ret` (R31). -/
def stepClrFinal (s : State) : Host.Outcome State Fault Refusal :=
  perform .clrFinal (goto (if s.ret = 0 then .pEnd else .dNext)) s

/-- The events of state `P_END`: no `END` in DMA-queued mode (R130). -/
def endEvents (cfg : Config) (c : Line) : List Event :=
  if cfg.dmaQueued then [] else [.endTx c]

/-- State `P_END` (R130): every read is of the value at the start of the step. -/
def stepPEnd (s : State) : Host.Outcome State Fault Refusal :=
  let t := { emitAll (endEvents s.cfg s.cs) s with k := s.k + 1 }
  .next (if s.k.toNat + 1 < s.cfg.n then goto .pBegin { t with cs := csOf s.cfg (s.k.toNat + 1) }
    else goto .restore t)

/-! After the panels. -/

/-- State `RESTORE` (R131). -/
def stepRestore (s : State) : Host.Outcome State Fault Refusal :=
  .next (goto .ready (emitAll [.delay s.cfg.t.settle, .clkdiv s.cfg.targetDiv] s))

/-! De-initialisation. -/

/-- State `D_START` (R169). -/
def stepDStart (s : State) : Host.Outcome State Fault Refusal :=
  .next (goto .dNext { s with k := 0 })

/-- State `D_NEXT` (R170). -/
def stepDNext (s : State) : Host.Outcome State Fault Refusal :=
  .next (if s.k.toNat < s.cfg.n then
      goto .clrRow { s with cs := csOf s.cfg s.k.toNat, k := s.k + 1, y := 0, ret := 1 }
    else goto (if s.qret = 1 then .ready else .idle) s)

/-! The quiescent states. -/

/-- `IDLE` and `READY`: the presented operation is taken off the input and run; with none presented there is no
step (R165). -/
def stepQuiescent (s : State) : Host.Outcome State Fault Refusal :=
  match s.hostOps with
  | [] => .fault .noOperation
  | code :: rest => exec (decodeHostOp code) { s with hostOps := rest }

/-- The step of a state. -/
def stepState (S : FsmState) (s : State) : Host.Outcome State Fault Refusal :=
  match S with
  | .idle => stepQuiescent s
  | .reset => stepReset s
  | .slowclk => stepSlowclk s
  | .pBegin => stepPBegin s
  | .swreset => stepSwreset s
  | .slpout => stepSlpout s
  | .gamma => stepGamma s
  | .pixfmt => stepPixfmt s
  | .addrmode => stepAddrmode s
  | .invert => stepInvert s
  | .partoff => stepPartoff s
  | .vscroll => stepVscroll s
  | .frmrate => stepFrmrate s
  | .dispon => stepDispon s
  | .bklt => stepBklt s
  | .clrRow => stepClrRow s
  | .clrFinal => stepClrFinal s
  | .pEnd => stepPEnd s
  | .restore => stepRestore s
  | .ready => stepQuiescent s
  | .dStart => stepDStart s
  | .dNext => stepDNext s

/-- One step of the block: the state `st` names; a code that names none is stuck (R23). -/
def stepBlock (s : State) : Host.Outcome State Fault Refusal :=
  match FsmState.ofCode s.st with
  | none => .fault .unusedCode
  | some S => stepState S s

end Sys2Proof.Machine
end

