-- ==== Sys2Proof/Machine/Fetch.lean ====
section
/-! DEFINITION. Placing one instruction so that the next step runs it. The block fetches nothing (R64): a host
operation comes from the operation input, and a controller command is issued by the FSM state that has it, with
the operand the configuration gives. So a command is placed by moving the FSM to that state and setting the
configuration parameters that select the command and its operand (log 12). -/

namespace Sys2Proof.Machine

/-- The operation presented next, in a quiescent state. -/
def presentOp (code : BitVec 2) (s : State) : State :=
  if isQuiescent s then { s with hostOps := code :: s.hostOps }
  else goto .idle { s with hostOps := code :: s.hostOps }

/-- The state from which the next step issues the instruction. A CASET with a start other than 0 is issued by no
state of the block (R90), and is not placed. -/
def placeInstr (i : Instr) (s : State) : State :=
  match i with
  | .swreset => goto .swreset { s with cfg := { s.cfg with fNoSwreset := false } }
  | .slpout => goto .slpout s
  | .noron => goto .partoff s
  | .invoff =>
    goto .invert
      { s with cfg := { s.cfg with fGammaEnable := false, invFamilyDefault := false, ovInvert := false } }
  | .invon =>
    goto .invert
      { s with cfg := { s.cfg with fGammaEnable := false, invFamilyDefault := true, ovInvert := false } }
  | .gamset b =>
    goto .gamma
      { s with cfg := { s.cfg with fGammaEnable := false, fNoGamsetFrmctr := false, argGamset := b } }
  | .dispon => goto .dispon s
  | .caset xs xe =>
    if xs = 0 then goto .clrFinal { s with cfg := { s.cfg with finalXEnd := xe.toNat } } else s
  | .raset ys ye =>
    if ys = 0 then goto .clrFinal { s with cfg := { s.cfg with finalYEnd := ye.toNat } }
    else goto .clrRow { s with y := ys, cfg := { s.cfg with ah := ye.toNat + 1 } }
  | .ramwr => goto .clrRow s
  | .madctl m =>
    goto .addrmode
      { s with cfg := { s.cfg with
          madctlFamilyDefault := m, ovBgrSwap := false, ovAxisExchange := false, ovHatRotate := false,
          ovRotate180 := false } }
  | .vscrsadd off =>
    let w := if off = 0 then 2 else 1
    goto .vscroll
      { s with
        madctl := s.madctl ||| s.cfg.madctlMy
        cfg := { s.cfg with fVscroll := true, w := w, h := 1, ah := w + off.toNat } }
  | .colmod b => goto .pixfmt { s with cfg := { s.cfg with argColmod := b } }
  | .frmctr1 args => goto .frmrate { s with cfg := { s.cfg with fNoGamsetFrmctr := false, argFrmctr1 := args } }
  | .dgmen b => goto .gamma { s with cfg := { s.cfg with fGammaEnable := true, argDgmen := b } }
  | .opInit => presentOp 0 s
  | .opDisplayOn => presentOp 1 s
  | .opDisplayOff => presentOp 2 s
  | .opDeinit => presentOp 3 s

/-- The state with the instruction of a table word placed; unchanged where the word is no instruction. -/
def placeWord (s : State) (nbits w : Nat) : State :=
  match instrOfTableWord s.cfg nbits w with
  | some i => placeInstr i s
  | none => s

end Sys2Proof.Machine
end

