-- ==== Sys2Proof/Machine/Step.lean ====
section
/-! DEFINITION. The step of the machine, and the placing of one instruction word. -/

namespace Sys2Proof.Machine

/-- One step (R10, R24). -/
def step (s : State) : Host.Outcome State Fault Refusal := stepBlock s

/-- The state whose next step runs the instruction of the table word (log 12). -/
def State.withFetchWord (s : State) (nbits w : Nat) : State := placeWord s nbits w

end Sys2Proof.Machine
end

