-- ==== Sys2Proof/Machine/Traces.lean ====
section
/-! DEFINITION. The spec's own event lists: the pseudo-instructions of R84 and the whole-operation traces of R106,
R132 and R171, written from those rules and not from the FSM, so that statements can hold the FSM against them. -/

namespace Sys2Proof.Machine

/-- `[x | cond]`: the list when the condition holds, else nothing (R132). -/
def whenOn (b : Bool) (l : List Event) : List Event := if b then l else []

/-- `SETWIN c, y`: X first, then Y (R92). -/
def setwin (cfg : Config) (c : Line) (y : Nat) : List Event :=
  [.xfer c cfg.opc.caset (coordPair cfg 0 (coordOfNat (cfg.w - 1))),
    .xfer c cfg.opc.raset (coordPair cfg (coordOfNat y) (coordOfNat (cfg.ah - 1)))]

/-- `FINALWIN c` (R93). -/
def finalwin (cfg : Config) (c : Line) : List Event :=
  [.xfer c cfg.opc.caset (coordPair cfg 0 (coordOfNat cfg.finalXEnd)),
    .xfer c cfg.opc.raset (coordPair cfg 0 (coordOfNat cfg.finalYEnd))]

/-- One row of the clear: `SETWIN(c, y) ++ PIXROW(c)` (R106). -/
def clearRow (cfg : Config) (c : Line) (y : Nat) : List Event := setwin cfg c y ++ pixrow cfg c

/-- `CLEAR(c)` (R106). -/
def clear (cfg : Config) (c : Line) : List Event :=
  (List.range cfg.ah).flatMap (clearRow cfg c) ++ finalwin cfg c

/-- `PANEL(c)` up to its clear: the bracket and the bring-up commands (R132). -/
def panelCommands (cfg : Config) (c : Line) : List Event :=
  [.beginTx c]
    ++ whenOn (!cfg.fNoSwreset) [.xfer c cfg.opc.swreset [], .delay cfg.t.swreset]
    ++ [.xfer c cfg.opc.slpout [], .delay cfg.t.slpout]
    ++ whenOn cfg.fGammaEnable [.xfer c cfg.opc.dgmen (frameScalar cfg cfg.argDgmen)]
    ++ whenOn (!cfg.fGammaEnable && !cfg.fNoGamsetFrmctr)
        [.xfer c cfg.opc.gamset (frameScalar cfg cfg.argGamset)]
    ++ [.xfer c cfg.opc.colmod (frameScalar cfg cfg.argColmod), .delay cfg.t.colmod]
    ++ [.xfer c cfg.opc.madctl (frameScalar cfg (computeMadctl cfg)), .delay cfg.t.madctl]
    ++ (if invEffective cfg then [.xfer c cfg.opc.invon []] else [.xfer c cfg.opc.invoff []])
    ++ [.xfer c cfg.opc.noron [], .delay cfg.t.noron]
    ++ whenOn (vscrollOn cfg (computeMadctl cfg))
        [.xfer c cfg.opc.vscrsadd (frameCoord cfg (coordOfNat (cfg.ah - cfg.w)))]
    ++ whenOn (!cfg.fNoGamsetFrmctr) [.xfer c cfg.opc.frmctr1 (frameScalars cfg cfg.argFrmctr1)]
    ++ [.xfer c cfg.opc.dispon [], .delay cfg.t.dispon]

/-- `PANEL(c)` (R132). -/
def panel (cfg : Config) (c : Line) : List Event :=
  panelCommands cfg c ++ backlightEvents cfg ++ clear cfg c ++ whenOn (!cfg.dmaQueued) [.endTx c]

/-- `INIT_TRACE(cfg)` (R132). -/
def initTrace (cfg : Config) : List Event :=
  resetEvents cfg ++ [.clkdiv cfg.slowDiv, .barrier]
    ++ (List.range cfg.n).flatMap (fun k => panel cfg (csOf cfg k))
    ++ [.delay cfg.t.settle, .clkdiv cfg.targetDiv]

/-- `DEINIT_TRACE(cfg)` (R171). -/
def deinitTrace (cfg : Config) : List Event :=
  (List.range cfg.n).flatMap (fun k => clear cfg (csOf cfg k))

/-- The sum of the `DELAY` events of a list, in microseconds (R205). -/
def delayTotal : List Event → Nat
  | [] => 0
  | .delay t :: es => t + delayTotal es
  | _ :: es => delayTotal es

/-- `Tmin(Init)` (R205). -/
def minInitTime (cfg : Config) : Nat :=
  (if cfg.resetPin.isSome then 3 * cfg.t.reset else 0)
    + cfg.n * ((if cfg.fNoSwreset then 0 else cfg.t.swreset) + cfg.t.slpout + cfg.t.colmod + cfg.t.madctl
        + cfg.t.noron + cfg.t.dispon)
    + cfg.t.settle

/-- The chip-select line an event carries, if it carries one (R134). -/
def eventLine : Event → Option Line
  | .xfer c _ _ => some c
  | .beginTx c => some c
  | .endTx c => some c
  | .taskAlloc c _ => some c
  | .gpioMode _ | .gpioSet _ | .gpioClr _ | .delay _ | .clkdiv _ | .barrier => none
  | .taskTag _ | .taskFill0 | .taskCommit | .taskExec | .taskRelease => none

/-- The event is a transfer. -/
def isXfer : Event → Bool
  | .xfer _ _ _ => true
  | .beginTx _ | .endTx _ | .taskAlloc _ _ => false
  | .gpioMode _ | .gpioSet _ | .gpioClr _ | .delay _ | .clkdiv _ | .barrier => false
  | .taskTag _ | .taskFill0 | .taskCommit | .taskExec | .taskRelease => false

/-- The event is a transfer with the given opcode byte. -/
def isXferOf (o : Byte) : Event → Bool
  | .xfer _ o' _ => o' == o
  | .beginTx _ | .endTx _ | .taskAlloc _ _ => false
  | .gpioMode _ | .gpioSet _ | .gpioClr _ | .delay _ | .clkdiv _ | .barrier => false
  | .taskTag _ | .taskFill0 | .taskCommit | .taskExec | .taskRelease => false

/-- The event is a clock-divisor write. -/
def isClkdiv : Event → Bool
  | .clkdiv _ => true
  | .xfer _ _ _ | .beginTx _ | .endTx _ | .taskAlloc _ _ => false
  | .gpioMode _ | .gpioSet _ | .gpioClr _ | .delay _ | .barrier => false
  | .taskTag _ | .taskFill0 | .taskCommit | .taskExec | .taskRelease => false

/-- The event opens a bus transaction. -/
def isBegin : Event → Bool
  | .beginTx _ => true
  | .xfer _ _ _ | .endTx _ | .taskAlloc _ _ => false
  | .gpioMode _ | .gpioSet _ | .gpioClr _ | .delay _ | .clkdiv _ | .barrier => false
  | .taskTag _ | .taskFill0 | .taskCommit | .taskExec | .taskRelease => false

/-- The event allocates a pixel task. -/
def isAlloc : Event → Bool
  | .taskAlloc _ _ => true
  | .xfer _ _ _ | .beginTx _ | .endTx _ => false
  | .gpioMode _ | .gpioSet _ | .gpioClr _ | .delay _ | .clkdiv _ | .barrier => false
  | .taskTag _ | .taskFill0 | .taskCommit | .taskExec | .taskRelease => false

/-- The event is an event of a window command or of a pixel task, the only ones of a clear (R171). -/
def isClearEvent (cfg : Config) : Event → Bool
  | .xfer _ o _ => o == cfg.opc.caset || o == cfg.opc.raset
  | .taskAlloc _ _ => true
  | .taskTag o => o == cfg.opc.ramwr
  | .taskFill0 | .taskCommit | .taskExec | .taskRelease => true
  | .beginTx _ | .endTx _ => false
  | .gpioMode _ | .gpioSet _ | .gpioClr _ | .delay _ | .clkdiv _ | .barrier => false

end Sys2Proof.Machine
end

