-- ==== Sys2Proof/Machine/TraceCheck.lean ====
section
/-! DEFINITION. Checking a recorded trace (R79, R82), the lifecycle of pixel tasks (R103), what the shadow registers
say of a trace (R30, R34, R35), and the ordering contract of the environment (R63). -/

namespace Sys2Proof.Machine

/-- The trace checker of R79: a transfer must decode whole to one command under the configuration, and a tag must
be one of the fifteen configured values. DESIGN CHOICE (log 30): a transfer that carries RAMWR's opcode passes with
`W * BPP_BYTES` zero bytes, RAMWR's byte form of log 14. R79 asks only that bytes outside the fifteen be rejected, and
R100 has that opcode travel in a tag. DESIGN CHOICE (log 32): a tag passes with any of the fifteen, where R81 tags with
RAMWR's opcode alone. -/
def eventOk (cfg : Config) : Event → Bool
  | .xfer _ o a =>
    match decode cfg (.transfer (o :: a)) with
    | .ok _ => true
    | .error _ => false
  | .taskTag o => (cmdOfByte cfg o).isSome
  | .gpioMode _ | .gpioSet _ | .gpioClr _ | .delay _ | .clkdiv _ | .barrier => true
  | .beginTx _ | .endTx _ | .taskAlloc _ _ => true
  | .taskFill0 | .taskCommit | .taskExec | .taskRelease => true

/-- Where a trace stands in the lifecycle of a pixel task (R103): `free` when no task is live. -/
inductive TaskPhase
  | free | allocated | tagged | filled | committed | executed
  deriving DecidableEq, Repr

/-- The next phase; `none` where R103 allows no such event: a task event out of order, or any other event between
`TASK_ALLOC` and `TASK_RELEASE`. -/
def nextPhase : TaskPhase → Event → Option TaskPhase
  | .free, .taskAlloc _ _ => some .allocated
  | .allocated, .taskTag _ => some .tagged
  | .tagged, .taskFill0 => some .filled
  | .filled, .taskCommit => some .committed
  | .committed, .taskExec => some .executed
  | .executed, .taskRelease => some .free
  | .free, .xfer _ _ _ => some .free
  | .free, .beginTx _ => some .free
  | .free, .endTx _ => some .free
  | .free, .gpioMode _ => some .free
  | .free, .gpioSet _ => some .free
  | .free, .gpioClr _ => some .free
  | .free, .delay _ => some .free
  | .free, .clkdiv _ => some .free
  | .free, .barrier => some .free
  | _, _ => none

/-- The phase after a trace; `none` when the trace breaks R103. -/
def phaseAfter : TaskPhase → List Event → Option TaskPhase
  | p, [] => some p
  | p, e :: es =>
    match nextPhase p e with
    | some q => phaseAfter q es
    | none => none

/-- The last divisor a trace writes, `UNKNOWN` when it writes none (R30). -/
def lastClkdiv : ClockShadow → List Event → ClockShadow
  | d, [] => d
  | _, .clkdiv d' :: es => lastClkdiv (.div d') es
  | d, _ :: es => lastClkdiv d es

/-- Whether a trace leaves the transaction of line c open: its last `BEGIN(c)` or `END(c)` is a `BEGIN` (R34). -/
def bracketOpen (c : Line) : Bool → List Event → Bool
  | b, [] => b
  | b, .beginTx c' :: es => bracketOpen c (if c' = c then true else b) es
  | b, .endTx c' :: es => bracketOpen c (if c' = c then false else b) es
  | b, _ :: es => bracketOpen c b es

/-- The backlight level a trace leaves: that of its last level event on the backlight pin (R35). -/
def lastLevel (pin : Option Pin) : Backlight → List Event → Backlight
  | l, [] => l
  | l, .gpioSet p :: es => lastLevel pin (if pin = some p then .high else l) es
  | l, .gpioClr p :: es => lastLevel pin (if pin = some p then .low else l) es
  | l, _ :: es => lastLevel pin l es

/-- Event i of the trace is a clock-divisor write that no barrier directly follows (R63, item O6).
DESIGN CHOICE (log 28): "no BARRIER follows" is read as "not as the next event", so the restore of one Init stays
unordered even across the BARRIER of a second Init (R166), where R50 and R62 speak of every earlier event. -/
def unbarriered (tr : List Event) (i : Nat) : Bool :=
  match tr[i]? with
  | some (.clkdiv _) => tr[i + 1]? != some .barrier
  | _ => false

/-- The environment's contract (R63): event i must be performed before event j. It must, for i before j, except
when i is an unbarriered clock-divisor write, which is unordered against what follows it (O6, R202), a later Init's
barrier and the events after that included: DESIGN CHOICE (log 28). -/
def mustPrecede (tr : List Event) (i j : Nat) : Bool :=
  decide (i < j ∧ j < tr.length) && !unbarriered tr i

end Sys2Proof.Machine
end

