-- ==== Sys2Proof/Machine/Observer.lean ====
section
/-! DEFINITION. The panel RAM observer of R60, for statements about what a trace would write. It is not normative
and no part of the block: the write model is [from general knowledge, not in source]. PRESUMED (log 22). -/

namespace Sys2Proof.Machine

/-- The place of a pixel on a line, in window coordinates: column, row. It is a cell of the panel's RAM when `inRam`
says so. -/
structure PixelCell where
  line : Line
  x : Nat
  y : Nat
  deriving DecidableEq, Repr

/-- The task the observer follows. -/
structure ObservedTask where
  line : Line
  size : Nat
  ramwr : Bool
  zeroed : Bool
  deriving DecidableEq, Repr

/-- The observer: the RAM's width W_RAM in cells (a parameter of the panel; R60 gives it as at least W), the two ranges
of each line as the last CASET and RASET set them, the live task, and the writes to RAM cells so far, newest first, each
with whether the pixel's bytes are all 0x00. -/
structure Observer where
  wRam : Nat
  cols : Line → Nat × Nat
  rows : Line → Nat × Nat
  task : Option ObservedTask
  writes : List (PixelCell × Bool)

/-- The place is one of the `W_RAM × AH` cells of the panel's RAM (R60). -/
def inRam (cfg : Config) (o : Observer) (p : PixelCell) : Bool := decide (p.x < o.wRam ∧ p.y < cfg.ah)

/-- The places of `count` pixels in raster order from (xs, ys), width columns to a row. DESIGN CHOICE (log 29): pixels
past the window's last row go on into the rows below it. -/
def raster (c : Line) (xs width ys : Nat) (count : Nat) : List PixelCell :=
  (List.range count).map fun j => { line := c, x := xs + j % width, y := ys + j / width }

/-- The RAM cells the payload of a task is written to, in raster order from the window's corner (R60).
DESIGN CHOICE (log 29): a pixel whose place is outside the RAM writes no cell. DESIGN CHOICE (log 31): the bytes after
the last whole pixel write nothing, and a task writes nothing when `BPP_BYTES` is 0. -/
def pixelWrites (cfg : Config) (o : Observer) (t : ObservedTask) : List PixelCell :=
  let (xs, xe) := o.cols t.line
  let (ys, _) := o.rows t.line
  (raster t.line xs (xe - xs + 1) ys (t.size / cfg.bppBytes)).filter (inRam cfg o)

/-- One event seen by the observer (R60). DESIGN CHOICE (log 33): a CASET or RASET transfer whose bytes do not decode
leaves the line's range. DESIGN CHOICE (log 34): the pixels of a task executed without a fill count as not all 0x00.
DESIGN CHOICE (log 35): what events in another order than R103's do. -/
def observe (cfg : Config) (o : Observer) : Event → Observer
  | .xfer c op a =>
    match decode cfg (.transfer (op :: a)) with
    | .ok (.caset xs xe) => { o with cols := fun l => if l = c then (xs.toNat, xe.toNat) else o.cols l }
    | .ok (.raset ys ye) => { o with rows := fun l => if l = c then (ys.toNat, ye.toNat) else o.rows l }
    | _ => o
  | .taskAlloc c n => { o with task := some { line := c, size := n, ramwr := false, zeroed := false } }
  | .taskTag op => { o with task := o.task.map fun t => { t with ramwr := op == cfg.opc.ramwr } }
  | .taskFill0 => { o with task := o.task.map fun t => { t with zeroed := true } }
  | .taskExec =>
    match o.task with
    | some t =>
      if t.ramwr then
        { o with writes := ((pixelWrites cfg o t).map fun p => (p, t.zeroed)) ++ o.writes }
      else o
    | none => o
  | .taskRelease => { o with task := none }
  | .taskCommit | .gpioMode _ | .gpioSet _ | .gpioClr _ | .delay _ | .clkdiv _ | .barrier => o
  | .beginTx _ | .endTx _ => o

/-- A trace seen by the observer. -/
def observeAll (cfg : Config) (o : Observer) (tr : List Event) : Observer := tr.foldl (observe cfg) o

/-- The newest write to the cell wrote zero bytes; not so of a cell that no write has reached, whose contents the block
does not know (R196). -/
def isBlack (o : Observer) (p : PixelCell) : Bool :=
  match o.writes.find? (fun w => w.1 == p) with
  | some w => w.2
  | none => false

end Sys2Proof.Machine
end

