-- ==== Sys2Proof/Machine/TraceSyntax.lean ====
section
/-! DEFINITION. The trace syntax of R83: one line of text for one event. It carries no meaning beyond the event. -/

namespace Sys2Proof.Machine

/-- One hex digit, upper case as in the spec's examples (log 37, DEDUCED). -/
def hexDigit (n : Nat) : Char :=
  match n with
  | 0 => '0' | 1 => '1' | 2 => '2' | 3 => '3' | 4 => '4' | 5 => '5' | 6 => '6' | 7 => '7'
  | 8 => '8' | 9 => '9' | 10 => 'A' | 11 => 'B' | 12 => 'C' | 13 => 'D' | 14 => 'E' | _ => 'F'

/-- Two hex digits. -/
def hexByte (b : Byte) : List Char := [hexDigit (b.toNat / 16), hexDigit (b.toNat % 16)]

/-- Bytes separated by single spaces. -/
def hexBytes : List Byte → List Char
  | [] => []
  | [b] => hexByte b
  | b :: c :: bs => hexByte b ++ [' '] ++ hexBytes (c :: bs)

/-- A natural in decimal, as in the spec's examples (log 37, DEDUCED). -/
def decimal (n : Nat) : List Char := Nat.toDigits 10 n

/-- The mnemonic of a command (R78). -/
def cmdMnemonic : Cmd → String
  | .swreset => "SWRESET" | .slpout => "SLPOUT" | .noron => "NORON" | .invoff => "INVOFF"
  | .invon => "INVON" | .gamset => "GAMSET" | .dispon => "DISPON" | .caset => "CASET"
  | .raset => "RASET" | .ramwr => "RAMWR" | .madctl => "MADCTL" | .vscrsadd => "VSCRSADD"
  | .colmod => "COLMOD" | .frmctr1 => "FRMCTR1" | .dgmen => "DGMEN"

/-- `MNEMONIC(0xoo)`; none for a reserved opcode byte. -/
def renderOpcode (cfg : Config) (o : Byte) : Option (List Char) :=
  (cmdOfByte cfg o).map fun c => (cmdMnemonic c).toList ++ "(0x".toList ++ hexByte o ++ [')']

/-- The line of one event (R83). DESIGN CHOICE (log 36): R83 gives a tag's line for RAMWR only, and a tag with another
of the fifteen opcodes is written with that command's mnemonic; an event whose opcode is none of the fifteen, for which
there is no mnemonic, has no line. -/
def renderEvent (cfg : Config) : Event → Option (List Char)
  | .gpioMode p => some ("GPIO_MODE p=".toList ++ decimal p ++ " OUT".toList)
  | .gpioSet p => some ("GPIO_SET p=".toList ++ decimal p)
  | .gpioClr p => some ("GPIO_CLR p=".toList ++ decimal p)
  | .delay t => some ("DELAY ".toList ++ decimal t ++ "us".toList)
  | .clkdiv d => some ("CLKDIV ".toList ++ decimal d)
  | .barrier => some "BARRIER".toList
  | .beginTx c => some ("BEGIN cs=".toList ++ decimal c.toNat)
  | .endTx c => some ("END cs=".toList ++ decimal c.toNat)
  | .xfer c o a =>
    (renderOpcode cfg o).map fun m =>
      "XFER cs=".toList ++ decimal c.toNat ++ [' '] ++ m ++ " [".toList ++ hexBytes a ++ [']']
  | .taskAlloc c n => some ("TASK_ALLOC cs=".toList ++ decimal c.toNat ++ " n=".toList ++ decimal n)
  | .taskTag o => (renderOpcode cfg o).map fun m => "TASK_TAG ".toList ++ m
  | .taskFill0 => some "TASK_FILL0".toList
  | .taskCommit => some "TASK_COMMIT".toList
  | .taskExec => some "TASK_EXEC".toList
  | .taskRelease => some "TASK_RELEASE".toList

end Sys2Proof.Machine
end

