-- ==== Sys2Proof/Safety.lean ====
section
/-! DEFINITION. The terms claims are stated in: the invariant every step keeps, the conditions of the configuration
checks as propositions, and the view of a state without the registers no rule has written yet. -/

namespace Sys2Proof.Machine

/-! Runs. -/

/-- `n` steps, stopping at the first fault or refusal: `Host.Core.run` of the machine, in the model's own terms. -/
def runSteps : Nat → State → Host.Outcome State Fault Refusal
  | 0, s => .next s
  | n + 1, s => andThen (step s) (runSteps n)

/-! Configuration checks. -/

/-- Exactly one bit of the byte is set. -/
def ExactlyOneBit (b : Byte) : Prop := ∃ i, i < 8 ∧ b = BitVec.ofNat 8 (2 ^ i)

/-- The condition column of R176's table, by the reason its failure gives. -/
def checkCondition (cfg : Config) : RefuseReason → Prop
  | .rfGeometry => 1 ≤ cfg.w ∧ cfg.w ≤ 65536 ∧ 1 ≤ cfg.h ∧ cfg.h ≤ cfg.ah ∧ cfg.ah ≤ 65536
  | .rfFinalRange => cfg.finalXEnd ≤ 65535 ∧ cfg.finalYEnd ≤ 65535
  | .rfCursor8Range =>
    cfg.busMode = .bmCursor8 →
      cfg.w ≤ 256 ∧ cfg.ah ≤ 256 ∧ cfg.finalXEnd ≤ 255 ∧ cfg.finalYEnd ≤ 255
  | .rfPanelCount => cfg.n = 1 ∨ cfg.n = 2
  | .rfBpp => 1 ≤ cfg.bppBytes
  | .rfVscrollOffset => vscrollOn cfg (computeMadctl cfg) = true → cfg.w ≤ cfg.ah
  | .rfMadctlMasks =>
    ExactlyOneBit cfg.madctlBgr ∧ ExactlyOneBit cfg.madctlMv ∧ ExactlyOneBit cfg.madctlMx ∧
      ExactlyOneBit cfg.madctlMy ∧ [cfg.madctlBgr, cfg.madctlMv, cfg.madctlMx, cfg.madctlMy].Nodup
  | .rfOpcodes => cfg.opc.toList.Nodup
  | .rfClkdiv => cfg.slowDiv < 2 ^ cfg.clkDivBits ∧ cfg.targetDiv < 2 ^ cfg.clkDivBits
  | .rfPins =>
    (∀ p, cfg.resetPin = some p → p ∈ cfg.pinSpace) ∧ (∀ p, cfg.backlightPin = some p → p ∈ cfg.pinSpace) ∧
      (∀ p q, cfg.resetPin = some p → cfg.backlightPin = some q → p ≠ q)

/-- The row number of a check in R176's table. -/
def checkNumber : RefuseReason → Nat
  | .rfGeometry => 1
  | .rfFinalRange => 2
  | .rfCursor8Range => 3
  | .rfPanelCount => 4
  | .rfBpp => 5
  | .rfVscrollOffset => 6
  | .rfMadctlMasks => 7
  | .rfOpcodes => 8
  | .rfClkdiv => 9
  | .rfPins => 10

/-! The invariant. -/

/-- The panel served in bring-up: index below N, on its line (R26, R134). -/
def PanelServed (s : State) : Prop := s.k.toNat < s.cfg.n ∧ s.cs = csOf s.cfg s.k.toNat

/-- The panel being cleared: in bring-up (`ret` = 0) the one served; in de-initialisation (`ret` = 1) the one before
the index, which counts the clears started (R25, R31). -/
def PanelCleared (s : State) : Prop :=
  (s.ret = 0 → PanelServed s) ∧
    (s.ret = 1 → 1 ≤ s.k.toNat ∧ s.k.toNat ≤ s.cfg.n ∧ s.cs = csOf s.cfg (s.k.toNat - 1))

/-- What holds in a state of the FSM, given the configuration is well-formed. -/
def PhaseInv (S : FsmState) (s : State) : Prop :=
  match S with
  | .idle | .ready | .reset | .slowclk | .restore | .dStart | .dNext => True
  | .pBegin | .swreset | .slpout | .gamma | .pixfmt | .addrmode => PanelServed s
  | .invert | .partoff | .vscroll => PanelServed s ∧ s.madctl = computeMadctl s.cfg
  | .frmrate | .dispon | .bklt | .pEnd => PanelServed s
  | .clrRow | .clrFinal => PanelCleared s

/-- The invariant of the block: no pixel task is live between steps (R33); the state code names a state (R23); the
counters stay in range (R25, R27); a busy block has a well-formed configuration (R165); and the panel and line
registers are those of the state. -/
structure BlockInv (s : State) : Prop where
  noTask : s.taskLive = false ∧ s.task = none
  legal : s.st.toNat ≤ 21
  panelIndex : s.k.toNat ≤ s.cfg.n
  rowIndex : wellFormed s.cfg = true → s.y.toNat < s.cfg.ah
  busy : isQuiescent s = false → wellFormed s.cfg = true
  phase : ∀ S, FsmState.ofCode s.st = some S → PhaseInv S s

/-- The shadow registers are what the trace says (R30, R34, R35). -/
structure ShadowInv (s : State) : Prop where
  clk : s.clk = lastClkdiv .unknown s.trace
  open0 : s.open0 = bracketOpen 0 false s.trace
  open1 : s.open1 = bracketOpen 1 false s.trace
  bl : s.bl = lastLevel s.cfg.backlightPin .undriven s.trace

/-! Unwritten registers. -/

/-- Whether a later step may read the value `k` has now. -/
def liveK : FsmState → Bool
  | .pBegin | .swreset | .slpout | .gamma | .pixfmt | .addrmode | .invert | .partoff | .vscroll | .frmrate
  | .dispon | .bklt | .clrRow | .clrFinal | .pEnd | .dNext => true
  | .idle | .ready | .reset | .slowclk | .restore | .dStart => false

/-- Whether a later step may read the value `cs` has now. -/
def liveCs : FsmState → Bool
  | .pBegin | .swreset | .slpout | .gamma | .pixfmt | .addrmode | .invert | .partoff | .vscroll | .frmrate
  | .dispon | .bklt | .clrRow | .clrFinal | .pEnd => true
  | .idle | .ready | .reset | .slowclk | .restore | .dStart | .dNext => false

/-- Whether a later step may read the value `y` has now. -/
def liveY : FsmState → Bool
  | .clrRow => true
  | .idle | .ready | .reset | .slowclk | .restore | .dStart | .dNext => false
  | .pBegin | .swreset | .slpout | .gamma | .pixfmt | .addrmode | .invert | .partoff | .vscroll | .frmrate
  | .dispon | .bklt | .clrFinal | .pEnd => false

/-- Whether a later step may read the value `madctl` has now. -/
def liveMadctl : FsmState → Bool
  | .invert | .partoff | .vscroll => true
  | .idle | .ready | .reset | .slowclk | .restore | .dStart | .dNext => false
  | .pBegin | .swreset | .slpout | .gamma | .pixfmt | .addrmode | .frmrate
  | .dispon | .bklt | .clrRow | .clrFinal | .pEnd => false

/-- Whether a later step may read the value `ret` has now. -/
def liveRet : FsmState → Bool
  | .clrRow | .clrFinal => true
  | .idle | .ready | .reset | .slowclk | .restore | .dStart | .dNext => false
  | .pBegin | .swreset | .slpout | .gamma | .pixfmt | .addrmode | .invert | .partoff | .vscroll | .frmrate
  | .dispon | .bklt | .pEnd => false

/-- Whether a later step may read the value `qret` has now; during a clear, only on the way back to `D_NEXT`. -/
def liveQret (ret : BitVec 1) : FsmState → Bool
  | .dStart | .dNext => true
  | .clrRow | .clrFinal => ret == 1
  | .idle | .ready | .reset | .slowclk | .restore => false
  | .pBegin | .swreset | .slpout | .gamma | .pixfmt | .addrmode | .invert | .partoff | .vscroll | .frmrate
  | .dispon | .bklt | .pEnd => false

/-- The state with every register zeroed that no later step reads before writing it; `inv` is always one of them
(R29). -/
def liveView (s : State) : State :=
  match FsmState.ofCode s.st with
  | none => s
  | some S =>
    { s with
      k := if liveK S then s.k else 0
      cs := if liveCs S then s.cs else 0
      y := if liveY S then s.y else 0
      madctl := if liveMadctl S then s.madctl else 0
      inv := false
      ret := if liveRet S then s.ret else 0
      qret := if liveQret s.ret S then s.qret else 0 }

/-- The live view of an outcome. -/
def liveOutcome (o : Host.Outcome State Fault Refusal) : Host.Outcome State Fault Refusal :=
  andThen o (fun s => .next (liveView s))

end Sys2Proof.Machine
end

