-- ==== Sys2Proof/Certificates/Slice0/Obligations.lean ====
section
/-! DEFINITION. The statements for the provers, from the numbered rules of spec/. Every statement holds for every
configuration: the configuration record is a field of the state (log 1). -/

open Sys2Proof Sys2Proof.Machine

/-! Reset and the FSM state register. -/

/-- The reset values R41 gives, and that nothing has been emitted or refused. The registers R41 leaves "none
(unwritten)" are not stated: their zero is the model's choice (log 3). -/
def Obligations.ResetLeavesTheStatedValues : Prop :=
  ∀ cfg, ∃ s, s = State.resetWith cfg ∧ s.st = 0 ∧ s.st = FsmState.idle.code ∧ s.taskLive = false ∧
    s.open0 = false ∧ s.open1 = false ∧ s.clk = .unknown ∧ s.bl = .undriven ∧ s.trace = [] ∧
    s.task = none ∧ s.refusedMark = none

/-- R22, R23: a code from 22 to 31 names no state, a step from one is stuck, and no step writes one; each code 0 to 21
names its state of R22's table. The stuck outcome as the fault `unusedCode` is the model's reading (log 8, DEDUCED), and
that no step writes such a code is R23's own inference. -/
def Obligations.UnusedCodesAreStuckAndNeverWritten : Prop :=
  (∀ s, 22 ≤ s.st.toNat → FsmState.ofCode s.st = none ∧ step s = .fault .unusedCode) ∧
  (∀ s t, step s = .next t → s.st.toNat ≤ 21 ∧ t.st.toNat ≤ 21) ∧
  FsmState.all.map FsmState.code = (List.range 22).map (BitVec.ofNat 5) ∧
  (∀ S c, FsmState.ofCode c = some S ↔ c = S.code)

/-! A step runs what the FSM presents. -/

/-- In a quiescent state with an operation presented, the step is that operation's instruction (R85, R165); with none
presented there is no step (R165, R173). The model's own: the input list (log 4, DESIGN CHOICE), that the operation is
taken off it before it runs (log 23, DEDUCED), and the fault that stands for no step (log 5, DEDUCED). -/
def Obligations.StepRunsThePresentedOperation : Prop :=
  (∀ s code rest, isQuiescent s = true → s.hostOps = code :: rest →
    step s = exec (decodeHostOp code) { s with hostOps := rest } ∧
    decode s.cfg (.hostOp code) = .ok (decodeHostOp code)) ∧
  (∀ s, isQuiescent s = true → s.hostOps = [] → step s = .fault .noOperation)

/-- In a state that issues commands, the step is `exec` of those commands in order, and then register writes and the
move: the trace, the input and every shadow are what the commands left. -/
def Obligations.StepRunsTheIssuedCommands : Prop :=
  ∀ s S, FsmState.ofCode s.st = some S → commandsOf S s ≠ [] →
    ∃ t u, execAll (commandsOf S s) s = .next t ∧ step s = .next u ∧
      u = { t with st := u.st, y := u.y, madctl := u.madctl, inv := u.inv }

/-! Bring-up: each command with the state that issues it. -/

/-- SWRESET (R141) and state SWRESET (R119). -/
def Obligations.SoftwareReset : Prop :=
  (∀ s, exec .swreset s = .next { s with
      trace := s.trace ++ [.xfer s.cs s.cfg.opc.swreset [], .delay s.cfg.t.swreset] }) ∧
  (∀ s, s.st = FsmState.swreset.code → s.cfg.fNoSwreset = false → step s = .next { s with
      st := FsmState.slpout.code
      trace := s.trace ++ [.xfer s.cs s.cfg.opc.swreset [], .delay s.cfg.t.swreset] }) ∧
  (∀ s, s.st = FsmState.swreset.code → s.cfg.fNoSwreset = true →
      step s = .next { s with st := FsmState.slpout.code }) ∧
  Delays.assumed.swreset = 120000

/-- SLPOUT (R142), NORON (R149), DISPON (R152) with the states SLPOUT (R120), PARTOFF (R125), DISPON (R128): one
transfer without arguments, then the command's delay, for every panel and every variant. -/
def Obligations.CommandsWithADelayOnly : Prop :=
  (∀ s, exec .slpout s = .next { s with
      trace := s.trace ++ [.xfer s.cs s.cfg.opc.slpout [], .delay s.cfg.t.slpout] }) ∧
  (∀ s, exec .noron s = .next { s with
      trace := s.trace ++ [.xfer s.cs s.cfg.opc.noron [], .delay s.cfg.t.noron] }) ∧
  (∀ s, exec .dispon s = .next { s with
      trace := s.trace ++ [.xfer s.cs s.cfg.opc.dispon [], .delay s.cfg.t.dispon] }) ∧
  (∀ s, s.st = FsmState.slpout.code → step s = .next { s with
      st := FsmState.gamma.code
      trace := s.trace ++ [.xfer s.cs s.cfg.opc.slpout [], .delay s.cfg.t.slpout] }) ∧
  (∀ s, s.st = FsmState.partoff.code → step s = .next { s with
      st := FsmState.vscroll.code
      trace := s.trace ++ [.xfer s.cs s.cfg.opc.noron [], .delay s.cfg.t.noron] }) ∧
  (∀ s, s.st = FsmState.dispon.code → step s = .next { s with
      st := FsmState.bklt.code
      trace := s.trace ++ [.xfer s.cs s.cfg.opc.dispon [], .delay s.cfg.t.dispon] }) ∧
  Delays.assumed.slpout = 120000 ∧ Delays.assumed.noron = 10000 ∧ Delays.assumed.dispon = 100000

/-- GAMSET (R143), DGMEN (R144) and state GAMMA (R121): DGMEN in place of GAMSET, and neither when only
`F_NO_GAMSET_FRMCTR` is set. -/
def Obligations.GammaStep : Prop :=
  (∀ s b, exec (.gamset b) s = .next { s with
      trace := s.trace ++ [.xfer s.cs s.cfg.opc.gamset (frameScalar s.cfg b)] }) ∧
  (∀ s b, exec (.dgmen b) s = .next { s with
      trace := s.trace ++ [.xfer s.cs s.cfg.opc.dgmen (frameScalar s.cfg b)] }) ∧
  (∀ s, s.st = FsmState.gamma.code → s.cfg.fGammaEnable = true → step s = .next { s with
      st := FsmState.pixfmt.code
      trace := s.trace ++ [.xfer s.cs s.cfg.opc.dgmen (frameScalar s.cfg s.cfg.argDgmen)] }) ∧
  (∀ s, s.st = FsmState.gamma.code → s.cfg.fGammaEnable = false → s.cfg.fNoGamsetFrmctr = false →
      step s = .next { s with
        st := FsmState.pixfmt.code
        trace := s.trace ++ [.xfer s.cs s.cfg.opc.gamset (frameScalar s.cfg s.cfg.argGamset)] }) ∧
  (∀ s, s.st = FsmState.gamma.code → s.cfg.fGammaEnable = false → s.cfg.fNoGamsetFrmctr = true →
      step s = .next { s with st := FsmState.pixfmt.code })

/-- COLMOD (R145) and state PIXFMT (R122). -/
def Obligations.PixelFormat : Prop :=
  (∀ s b, exec (.colmod b) s = .next { s with
      trace := s.trace ++ [.xfer s.cs s.cfg.opc.colmod (frameScalar s.cfg b), .delay s.cfg.t.colmod] }) ∧
  (∀ s, s.st = FsmState.pixfmt.code → step s = .next { s with
      st := FsmState.addrmode.code
      trace := s.trace ++
        [.xfer s.cs s.cfg.opc.colmod (frameScalar s.cfg s.cfg.argColmod), .delay s.cfg.t.colmod] }) ∧
  Delays.assumed.colmod = 20000

/-- MADCTL (R146) and state ADDRMODE (R123): the register and the command carry the same value. -/
def Obligations.AddressMode : Prop :=
  (∀ s m, exec (.madctl m) s = .next { s with
      trace := s.trace ++ [.xfer s.cs s.cfg.opc.madctl (frameScalar s.cfg m), .delay s.cfg.t.madctl] }) ∧
  (∀ s, s.st = FsmState.addrmode.code → step s = .next { s with
      st := FsmState.invert.code
      madctl := computeMadctl s.cfg
      trace := s.trace ++
        [.xfer s.cs s.cfg.opc.madctl (frameScalar s.cfg (computeMadctl s.cfg)), .delay s.cfg.t.madctl] }) ∧
  Delays.assumed.madctl = 10000

/-- INVON (R148), INVOFF (R147) and state INVERT (R124): exactly one of the two, by `invEffective`. -/
def Obligations.InversionStep : Prop :=
  (∀ s, exec .invon s = .next { s with trace := s.trace ++ [.xfer s.cs s.cfg.opc.invon []] }) ∧
  (∀ s, exec .invoff s = .next { s with trace := s.trace ++ [.xfer s.cs s.cfg.opc.invoff []] }) ∧
  (∀ s, s.st = FsmState.invert.code → step s = .next { s with
      st := FsmState.partoff.code
      inv := invEffective s.cfg
      trace := s.trace ++
        [.xfer s.cs (if invEffective s.cfg then s.cfg.opc.invon else s.cfg.opc.invoff) []] })

/-- VSCRSADD (R150) and state VSCROLL (R126): sent when the variant flag is set, the MY bit of the `madctl` register is
set and AH > H, with the offset AH - W. -/
def Obligations.VerticalScroll : Prop :=
  (∀ s off, exec (.vscrsadd off) s = .next { s with
      trace := s.trace ++ [.xfer s.cs s.cfg.opc.vscrsadd (frameCoord s.cfg off)] }) ∧
  (∀ s, s.st = FsmState.vscroll.code → s.cfg.fVscroll = true → s.madctl &&& s.cfg.madctlMy ≠ 0 →
      s.cfg.h < s.cfg.ah → step s = .next { s with
        st := FsmState.frmrate.code
        trace := s.trace ++
          [.xfer s.cs s.cfg.opc.vscrsadd (frameCoord s.cfg (coordOfNat (s.cfg.ah - s.cfg.w)))] }) ∧
  (∀ s, s.st = FsmState.vscroll.code →
      (s.cfg.fVscroll = false ∨ s.madctl &&& s.cfg.madctlMy = 0 ∨ s.cfg.ah ≤ s.cfg.h) →
      step s = .next { s with st := FsmState.frmrate.code })

/-- FRMCTR1 (R151) and state FRMRATE (R127). -/
def Obligations.FrameRate : Prop :=
  (∀ s args, exec (.frmctr1 args) s = .next { s with
      trace := s.trace ++ [.xfer s.cs s.cfg.opc.frmctr1 (frameScalars s.cfg args)] }) ∧
  (∀ s, s.st = FsmState.frmrate.code → s.cfg.fNoGamsetFrmctr = false → step s = .next { s with
      st := FsmState.dispon.code
      trace := s.trace ++ [.xfer s.cs s.cfg.opc.frmctr1 (frameScalars s.cfg s.cfg.argFrmctr1)] }) ∧
  (∀ s, s.st = FsmState.frmrate.code → s.cfg.fNoGamsetFrmctr = true →
      step s = .next { s with st := FsmState.dispon.code })

/-! Window addressing and the clear. -/

/-- CASET (R90) and RASET (R91): one transfer, start framed first, then end; nothing else changes. -/
def Obligations.WindowCommands : Prop :=
  (∀ s xs xe, exec (.caset xs xe) s = .next { s with
      trace := s.trace ++ [.xfer s.cs s.cfg.opc.caset (frameCoord s.cfg xs ++ frameCoord s.cfg xe)] }) ∧
  (∀ s ys ye, exec (.raset ys ye) s = .next { s with
      trace := s.trace ++ [.xfer s.cs s.cfg.opc.raset (frameCoord s.cfg ys ++ frameCoord s.cfg ye)] })

/-- RAMWR (R100, R101, R103): the six events of one task of `W * BPP_BYTES` bytes, in order, and no task live after
them. -/
def Obligations.PixelTaskLifecycle : Prop :=
  ∀ s, exec .ramwr s = .next { s with
    taskLive := false
    task := none
    trace := s.trace ++ [.taskAlloc s.cs (s.cfg.w * s.cfg.bppBytes), .taskTag s.cfg.opc.ramwr,
      .taskFill0, .taskCommit, .taskExec, .taskRelease] }

/-- R102: after the fill the live task has exactly n payload bytes, all 0x00, in canonical form, and the commit leaves
them so; `taskLive` is 1 from the allocation on (R33); and no event but an allocation, a fill or a release changes the
payload of a live task. -/
def Obligations.FilledPayloadIsAllZero : Prop :=
  (∀ (s : State) (c : Line) (n : Nat) (o : Byte),
    ∃ p, (emitAll [.taskAlloc c n, .taskTag o, .taskFill0] s).task = some p ∧
      (emitAll [.taskAlloc c n, .taskTag o, .taskFill0, .taskCommit] s).task = some p ∧
      (emitAll [.taskAlloc c n] s).taskLive = true ∧
      (emitAll [.taskAlloc c n, .taskTag o, .taskFill0, .taskCommit] s).taskLive = true ∧
      p.line = c ∧ p.size = n ∧ p.cmd = some o ∧ Memory.wf p.buf = true ∧
      (∀ a, a < n → Memory.read p.buf a = some 0x00) ∧
      (∀ a, n ≤ a → Memory.read p.buf a = none)) ∧
  (∀ (s : State) (e : Event), (∀ c n, e ≠ .taskAlloc c n) → e ≠ .taskFill0 → e ≠ .taskRelease →
    (emit e s).task.map PixelTask.buf = s.task.map PixelTask.buf)

/-- State CLR_ROW (R104) with SETWIN (R92) and PIXROW (R103): one row's window and task, then the next row or the
final bounds. -/
def Obligations.ClearRowStep : Prop :=
  (∀ s, s.st = FsmState.clrRow.code → s.y.toNat + 1 < s.cfg.ah → step s = .next { s with
      y := s.y + 1
      taskLive := false
      task := none
      trace := s.trace ++ setwin s.cfg s.cs s.y.toNat ++ pixrow s.cfg s.cs }) ∧
  (∀ s, s.st = FsmState.clrRow.code → s.cfg.ah ≤ s.y.toNat + 1 → step s = .next { s with
      st := FsmState.clrFinal.code
      taskLive := false
      task := none
      trace := s.trace ++ setwin s.cfg s.cs s.y.toNat ++ pixrow s.cfg s.cs })

/-- State CLR_FINAL (R105) with FINALWIN (R93): the final pair, then the return through `ret`. -/
def Obligations.ClearFinalStep : Prop :=
  ∀ s, s.st = FsmState.clrFinal.code → step s = .next { s with
    st := if s.ret = 0 then FsmState.pEnd.code else FsmState.dNext.code
    trace := s.trace ++
      [.xfer s.cs s.cfg.opc.caset (frameCoord s.cfg 0 ++ frameCoord s.cfg (coordOfNat s.cfg.finalXEnd)),
        .xfer s.cs s.cfg.opc.raset (frameCoord s.cfg 0 ++ frameCoord s.cfg (coordOfNat s.cfg.finalYEnd))] }

/-- R95: under a well-formed configuration, for every row of the clear, the pair of transfers the row sends carries
exactly the bounds [0, W-1] and [y, AH-1], as a receiver that knows the bus mode reads them. -/
def Obligations.RowWindowCarriesItsBounds : Prop :=
  ∀ s, s.st = FsmState.clrRow.code → wellFormed s.cfg = true → s.y.toNat < s.cfg.ah →
    ∃ t a b x0 x1 y0 y1, step s = .next t ∧
      t.trace = s.trace ++ [.xfer s.cs s.cfg.opc.caset a, .xfer s.cs s.cfg.opc.raset b] ++ pixrow s.cfg s.cs ∧
      takePair s.cfg a = some ((x0, x1), []) ∧ takePair s.cfg b = some ((y0, y1), []) ∧
      x0.toNat = 0 ∧ x1.toNat = s.cfg.w - 1 ∧ y0.toNat = s.y.toNat ∧ y1.toNat = s.cfg.ah - 1

/-! The other FSM states. -/

/-- State RESET (R116): the seven events of the pulse, or none without a reset pin. The clause on `bl` is the model's
reading (log 10, DEDUCED): the shadow follows a level event on its own pin (R35), which check K10 of R176 keeps
different from the reset pin; where they differ, no register but `st` is written (R116, R196). The mode event first and
the trailing delay are the spec's choice (D18, log 20). -/
def Obligations.ResetPulse : Prop :=
  (∀ s p, s.st = FsmState.reset.code → s.cfg.resetPin = some p → step s = .next { s with
      st := FsmState.slowclk.code
      bl := if s.cfg.backlightPin = some p then .high else s.bl
      trace := s.trace ++ [.gpioMode p, .gpioSet p, .delay s.cfg.t.reset, .gpioClr p,
        .delay s.cfg.t.reset, .gpioSet p, .delay s.cfg.t.reset] }) ∧
  (∀ s, s.st = FsmState.reset.code → s.cfg.resetPin = none →
      step s = .next { s with st := FsmState.slowclk.code })

/-- State SLOWCLK (R117): the slow divisor, the barrier directly after it, and the first panel. -/
def Obligations.SlowClock : Prop :=
  ∀ s, s.st = FsmState.slowclk.code → step s = .next { s with
    st := FsmState.pBegin.code
    k := 0
    cs := csOf s.cfg 0
    clk := .div s.cfg.slowDiv
    trace := s.trace ++ [.clkdiv s.cfg.slowDiv, .barrier] }

/-- State P_BEGIN (R118), in every transfer mode. -/
def Obligations.PanelBegin : Prop :=
  ∀ s, s.st = FsmState.pBegin.code → step s = .next { s with
    st := FsmState.swreset.code
    open0 := if s.cs = 0 then true else s.open0
    open1 := if s.cs = 0 then s.open1 else true
    trace := s.trace ++ [.beginTx s.cs] }

/-- State BKLT (R129). -/
def Obligations.BacklightStep : Prop :=
  (∀ s p, s.st = FsmState.bklt.code → s.cfg.backlightPin = some p → step s = .next { s with
      st := FsmState.clrRow.code
      y := 0
      ret := 0
      bl := .high
      trace := s.trace ++ [.gpioMode p, .gpioSet p] }) ∧
  (∀ s, s.st = FsmState.bklt.code → s.cfg.backlightPin = none → step s = .next { s with
      st := FsmState.clrRow.code
      y := 0
      ret := 0 })

/-- State P_END (R130): END unless DMA-queued, then the next panel on its line, or the restore. -/
def Obligations.PanelEnd : Prop :=
  ∀ s, s.st = FsmState.pEnd.code → step s = .next { s with
    k := s.k + 1
    cs := if s.k.toNat + 1 < s.cfg.n then csOf s.cfg (s.k.toNat + 1) else s.cs
    st := if s.k.toNat + 1 < s.cfg.n then FsmState.pBegin.code else FsmState.restore.code
    open0 := if s.cfg.dmaQueued = false ∧ s.cs = 0 then false else s.open0
    open1 := if s.cfg.dmaQueued = false ∧ s.cs = 1 then false else s.open1
    trace := if s.cfg.dmaQueued = true then s.trace else s.trace ++ [.endTx s.cs] }

/-- State RESTORE (R131): the settle delay, then the target divisor, with no barrier after it. -/
def Obligations.RestoreClock : Prop :=
  ∀ s, s.st = FsmState.restore.code → step s = .next { s with
    st := FsmState.ready.code
    clk := .div s.cfg.targetDiv
    trace := s.trace ++ [.delay s.cfg.t.settle, .clkdiv s.cfg.targetDiv] }

/-- States D_START (R169) and D_NEXT (R170). -/
def Obligations.DeinitPanelLoop : Prop :=
  (∀ s, s.st = FsmState.dStart.code → step s = .next { s with k := 0, st := FsmState.dNext.code }) ∧
  (∀ s, s.st = FsmState.dNext.code → s.k.toNat < s.cfg.n → step s = .next { s with
      cs := csOf s.cfg s.k.toNat
      k := s.k + 1
      y := 0
      ret := 1
      st := FsmState.clrRow.code }) ∧
  (∀ s, s.st = FsmState.dNext.code → s.cfg.n ≤ s.k.toNat → step s = .next { s with
      st := if s.qret = 1 then FsmState.ready.code else FsmState.idle.code })

/-! Host operations and refusal. -/

/-- The dispatch of R165, operation by operation: refused, before any event, when a check fails; else the operation's
own effect; and no transition at all in a state that is not quiescent, which the model says as the fault
`operationNotRead` (log 7, DEDUCED). That a refusal is a next state is log 6 (DEDUCED). -/
def Obligations.HostDispatch : Prop :=
  (∀ s i r, i.isHostOp = true → isQuiescent s = true → firstFailedCheck s.cfg = some r →
      exec i s = .next (raiseRefuse r s)) ∧
  (∀ s, isQuiescent s = true → wellFormed s.cfg = true →
      exec .opInit s = .next { s with st := FsmState.reset.code }) ∧
  (∀ s, isQuiescent s = true → wellFormed s.cfg = true →
      exec .opDeinit s = .next { s with
        qret := if s.st = FsmState.ready.code then 1 else 0
        st := FsmState.dStart.code }) ∧
  (∀ s i, i.isHostOp = true → isQuiescent s = false → exec i s = .fault .operationNotRead)

/-- OP_DISPLAY_ON (R167) and OP_DISPLAY_OFF (R168) under a well-formed configuration: one level event on the backlight
pin, the shadow, nothing else; nothing at all without a pin. An ill-formed configuration is refused (R165, R175); that
the refusal is a next state with the mark set is the model's reading (log 6, DEDUCED). -/
def Obligations.BacklightOperations : Prop :=
  (∀ s p, isQuiescent s = true → wellFormed s.cfg = true → s.cfg.backlightPin = some p →
      exec .opDisplayOn s = .next { s with bl := .high, trace := s.trace ++ [.gpioSet p] } ∧
      exec .opDisplayOff s = .next { s with bl := .low, trace := s.trace ++ [.gpioClr p] }) ∧
  (∀ s, isQuiescent s = true → wellFormed s.cfg = true → s.cfg.backlightPin = none →
      exec .opDisplayOn s = .next s ∧ exec .opDisplayOff s = .next s) ∧
  (∀ s r, isQuiescent s = true → firstFailedCheck s.cfg = some r →
      exec .opDisplayOn s = .next (raiseRefuse r s) ∧ exec .opDisplayOff s = .next (raiseRefuse r s))

/-- R175: a refused operation emits no event and changes no register, and the run is marked with the reason. That this is
a next state (log 6, DEDUCED), that a mark it already has stays (log 19, DESIGN CHOICE) and that the operation is taken
off the input (log 23, DEDUCED) are the model's. -/
def Obligations.RefusalChangesOnlyTheMark : Prop :=
  ∀ s code rest r, isQuiescent s = true → s.hostOps = code :: rest → firstFailedCheck s.cfg = some r →
    (s.refusedMark = none → step s = .next { s with hostOps := rest, refusedMark := some r }) ∧
    (∀ r', s.refusedMark = some r' → step s = .next { s with hostOps := rest })

/-- The refused mark is set only by a dispatch under an ill-formed configuration, and no step clears it (R175, R173).
That a refusal is a next state is the model's reading (log 6, DEDUCED); that a later one does not change the reason of
a mark either, in any state, is its choice (log 19, DESIGN CHOICE). -/
def Obligations.RefusedMarkIsSetOnceAndStays : Prop :=
  (∀ s t r, step s = .next t → s.refusedMark = some r → t.refusedMark = some r) ∧
  (∀ s t r, step s = .next t → s.refusedMark = none → t.refusedMark = some r →
      isQuiescent s = true ∧ firstFailedCheck s.cfg = some r ∧ wellFormed s.cfg = false)

/-- R176: well-formed means that each of the ten conditions of the table holds, and `firstFailedCheck` is the first one,
in table order, that fails. -/
def Obligations.ChecksAreTheTableInOrder : Prop :=
  (∀ cfg, wellFormed cfg = true ↔ ∀ r, checkCondition cfg r) ∧
  (∀ cfg r, firstFailedCheck cfg = some r ↔
    ¬ checkCondition cfg r ∧ ∀ r', checkNumber r' < checkNumber r → checkCondition cfg r') ∧
  (∀ cfg, firstFailedCheck cfg = none ↔ wellFormed cfg = true)

/-! Derived configuration values. -/

/-- R36: the chip-select line of the k-th panel. -/
def Obligations.ChipSelectAssignment : Prop :=
  (∀ cfg k, cfg.n = 1 → cfg.secondaryCsHw = true → csOf cfg k = if k % 2 = 0 then 1 else 0) ∧
  (∀ cfg k, cfg.n ≠ 1 ∨ cfg.secondaryCsHw = false → csOf cfg k = if k % 2 = 0 then 0 else 1)

/-- R37: the composition, and each override as a pure toggle of its mask. -/
def Obligations.MadctlOverridesAreToggles : Prop :=
  (∀ cfg, computeMadctl cfg = cfg.madctlFamilyDefault
      ^^^ (if cfg.ovBgrSwap then cfg.madctlBgr else 0)
      ^^^ (if cfg.ovAxisExchange then cfg.madctlMv else 0)
      ^^^ (if cfg.ovHatRotate then cfg.hatRotMask else 0)
      ^^^ (if cfg.ovRotate180 then cfg.madctlMx ||| cfg.madctlMy else 0)) ∧
  (∀ cfg, computeMadctl { cfg with ovBgrSwap := !cfg.ovBgrSwap } = computeMadctl cfg ^^^ cfg.madctlBgr) ∧
  (∀ cfg, computeMadctl { cfg with ovAxisExchange := !cfg.ovAxisExchange } =
      computeMadctl cfg ^^^ cfg.madctlMv) ∧
  (∀ cfg, computeMadctl { cfg with ovHatRotate := !cfg.ovHatRotate } =
      computeMadctl cfg ^^^ cfg.hatRotMask) ∧
  (∀ cfg, computeMadctl { cfg with ovRotate180 := !cfg.ovRotate180 } =
      computeMadctl cfg ^^^ (cfg.madctlMx ||| cfg.madctlMy))

/-- R38: the inversion flag. -/
def Obligations.InversionFlag : Prop :=
  ∀ cfg, (invEffective cfg = true ↔
    ((cfg.fGammaEnable = true ∨ cfg.invFamilyDefault = true) ↔ cfg.ovInvert = false))

/-! Encoding. -/

/-- R72 to R74 as arithmetic on the values: the high byte is v / 256 and the low byte v mod 256; a list of scalars is
framed element by element, a pair start first. -/
def Obligations.FramingByBusMode : Prop :=
  (∀ cfg b, frameScalar cfg b =
      if cfg.busMode = .bmBus16 ∧ cfg.padScalar16 = true then [0x00, b] else [b]) ∧
  (∀ cfg bs, frameScalars cfg bs = bs.flatMap (frameScalar cfg)) ∧
  (∀ cfg v, cfg.busMode = .bmDefault →
      frameCoord cfg v = [BitVec.ofNat 8 (v.toNat / 256), BitVec.ofNat 8 (v.toNat % 256)]) ∧
  (∀ cfg v, cfg.busMode = .bmBus16 →
      frameCoord cfg v =
        [0x00, BitVec.ofNat 8 (v.toNat / 256), 0x00, BitVec.ofNat 8 (v.toNat % 256)]) ∧
  (∀ cfg v, cfg.busMode = .bmCursor8 → v.toNat ≤ 255 → frameCoord cfg v = [BitVec.ofNat 8 v.toNat]) ∧
  (∀ cfg a b, coordPair cfg a b = frameCoord cfg a ++ frameCoord cfg b)

/-- A few words: the opcode bytes of R78's table under the default parameters (PRESUMED, log 2) and the codes of R85's.
That a 2-bit word is a host-operation code and an 8-bit word a transfer (so 1 is OP_DISPLAY_ON in one and SWRESET in the
other), and that the operand bytes above the word are zero, is the model's choice (log 13, DESIGN CHOICE). -/
def Obligations.TableWordsDecode : Prop :=
  decodeTableWord 8 0x01 = some .swreset ∧ decodeTableWord 8 0x2A = some (.caset 0 0) ∧
  decodeTableWord 8 0x2C = some .ramwr ∧ decodeTableWord 8 0x37 = some (.vscrsadd 0) ∧
  decodeTableWord 8 0xBA = some (.dgmen 0) ∧ decodeTableWord 2 0 = some .opInit ∧
  decodeTableWord 2 1 = some .opDisplayOn ∧ decodeTableWord 2 2 = some .opDisplayOff ∧
  decodeTableWord 2 3 = some .opDeinit

/-- Decoding an encoded well-formed instruction gives it back, for every instruction, every operand and every
configuration with pairwise distinct opcodes (K8 of R176). RAMWR's byte form is the model's choice (log 14). -/
def Obligations.DecodeInvertsEncode : Prop :=
  ∀ cfg i, cfg.opc.toList.Nodup → i.wf cfg = true → decode cfg (encode cfg i) = .ok i

/-- R82, R75: a receiver that knows the configuration splits a byte stream of transfers. R82 speaks of the arguments of
an XFER; the RAMWR case, its payload in the stream, is the model's choice (log 14, DESIGN CHOICE). -/
def Obligations.TransferStreamSplits : Prop :=
  ∀ cfg i rest, cfg.opc.toList.Nodup → i.wf cfg = true → i.isHostOp = false →
    decodeTransfer cfg (transferBytes cfg i ++ rest) = .ok (i, rest)

/-- The other direction: what decodes is the encoding of a well-formed instruction, so each word has one meaning. What
the decoder rejects is log 26 (DEDUCED); for RAMWR's words it rests on the model's byte form (log 14, DESIGN CHOICE). -/
def Obligations.EncodeInvertsDecode : Prop :=
  ∀ cfg e i, decode cfg e = .ok i → encode cfg i = e ∧ i.wf cfg = true

/-- R79: an opcode byte outside the fifteen configured values is rejected. -/
def Obligations.ReservedOpcodesAreRejected : Prop :=
  ∀ cfg o rest, o ∉ cfg.opc.toList → decodeTransfer cfg (o :: rest) = .error (.reservedOpcode o)

/-- Every event a step of a state of the invariant emits passes the trace checker of R79, and carries the line
`s.cs` if it carries one (R26). The checker's argument check is log 26 (DEDUCED), and what it says of a transfer with
RAMWR's opcode log 30, of a tag log 32 (DESIGN CHOICE). -/
def Obligations.EveryEmittedEventIsLegal : Prop :=
  ∀ s t, BlockInv s → step s = .next t → ∃ evs, t.trace = s.trace ++ evs ∧
    ∀ e ∈ evs, eventOk s.cfg e = true ∧ (eventLine e = none ∨ eventLine e = some s.cs)

/-! What every step keeps. -/

/-- R20 and R51: no step writes the configuration record, and a step only adds events at the end of the output. -/
def Obligations.StepsKeepTheConfigurationAndTheOutput : Prop :=
  ∀ s t, step s = .next t → t.cfg = s.cfg ∧ ∃ evs, t.trace = s.trace ++ evs

/-- R140: no controller command writes a register, a shadow or the input; RAMWR alone passes through a live task and
leaves none (R100). -/
def Obligations.CommandsWriteNoBlockState : Prop :=
  ∀ s i, i.isHostOp = false → ∃ evs, exec i s = .next { s with
    trace := s.trace ++ evs
    taskLive := if i = .ramwr then false else s.taskLive
    task := if i = .ramwr then none else s.task }

/-- Each register's only writers, each with the value it writes (R25 to R35; R175 for the mark). The task registers are
compared before and after the step (R33). The clause on `bl` holds under a well-formed configuration (K10 keeps the
reset pin off it, log 10), the one on the input is the model's (logs 4, 23), and so is a refusal as a next state (log
6). `st` moves in every state, as the statements of the states say. -/
def Obligations.OnlyTheNamedStatesWriteEachRegister : Prop :=
  ∀ s t S, step s = .next t → FsmState.ofCode s.st = some S →
    (t.k ≠ s.k → (S ∈ [.slowclk, .dStart] ∧ t.k = 0) ∨ (S ∈ [.pEnd, .dNext] ∧ t.k = s.k + 1)) ∧
    (t.cs ≠ s.cs → (S = .slowclk ∧ t.cs = csOf s.cfg 0) ∨
      (S = .pEnd ∧ s.k.toNat + 1 < s.cfg.n ∧ t.cs = csOf s.cfg (s.k.toNat + 1)) ∨
      (S = .dNext ∧ s.k.toNat < s.cfg.n ∧ t.cs = csOf s.cfg s.k.toNat)) ∧
    (t.y ≠ s.y → (S ∈ [.bklt, .dNext] ∧ t.y = 0) ∨ (S = .clrRow ∧ t.y = s.y + 1)) ∧
    (t.madctl ≠ s.madctl → S = .addrmode ∧ t.madctl = computeMadctl s.cfg) ∧
    (t.inv ≠ s.inv → S = .invert ∧ t.inv = invEffective s.cfg) ∧
    (t.ret ≠ s.ret → (S = .bklt ∧ t.ret = 0) ∨ (S = .dNext ∧ t.ret = 1)) ∧
    (t.qret ≠ s.qret → S.quiescent = true ∧ s.hostOps.head? = some 3 ∧
      t.qret = if S = .ready then 1 else 0) ∧
    (t.clk ≠ s.clk → (S = .slowclk ∧ t.clk = .div s.cfg.slowDiv) ∨
      (S = .restore ∧ t.clk = .div s.cfg.targetDiv)) ∧
    (t.open0 ≠ s.open0 → s.cs = 0 ∧
      ((S = .pBegin ∧ t.open0 = true) ∨ (S = .pEnd ∧ s.cfg.dmaQueued = false ∧ t.open0 = false))) ∧
    (t.open1 ≠ s.open1 → s.cs = 1 ∧
      ((S = .pBegin ∧ t.open1 = true) ∨ (S = .pEnd ∧ s.cfg.dmaQueued = false ∧ t.open1 = false))) ∧
    (wellFormed s.cfg = true → t.bl ≠ s.bl → s.cfg.backlightPin.isSome = true ∧
      ((S = .bklt ∧ t.bl = .high) ∨
        (S.quiescent = true ∧ s.hostOps.head? = some 1 ∧ t.bl = .high) ∨
        (S.quiescent = true ∧ s.hostOps.head? = some 2 ∧ t.bl = .low))) ∧
    ((t.taskLive ≠ s.taskLive ∨ t.task ≠ s.task) → S = .clrRow ∧ t.taskLive = false ∧ t.task = none) ∧
    (t.refusedMark ≠ s.refusedMark → S.quiescent = true ∧ t.refusedMark = firstFailedCheck s.cfg) ∧
    (t.hostOps ≠ s.hostOps → S.quiescent = true ∧ ∃ code, s.hostOps = code :: t.hostOps)

/-- R165, R180: outside the quiescent states the operation input is not read: the step is the same whatever it
holds. The input as a list is the model's (log 4, DESIGN CHOICE). -/
def Obligations.BusyBlockIgnoresTheInput : Prop :=
  ∀ s ops, isQuiescent s = false →
    step { s with hostOps := ops } = andThen (step s) (fun t => .next { t with hostOps := ops })

/-- R33, R103: no task is live between steps, and pixel tasks' lifecycles never overlap or lose their order. -/
def Obligations.PixelTasksNeverOverlap : Prop :=
  ∀ s t, step s = .next t → s.taskLive = false → s.task = none → phaseAfter .free s.trace = some .free →
    t.taskLive = false ∧ t.task = none ∧ phaseAfter .free t.trace = some .free

/-- Every step keeps the invariant of the block. -/
def Obligations.EveryStepKeepsTheInvariant : Prop :=
  ∀ s t, BlockInv s → step s = .next t → BlockInv t

/-- The invariants hold at reset, whatever the configuration. That `k` and `y` are 0 there, which the clauses on their
ranges need, is the model's choice: R41 gives them no value (log 3, DESIGN CHOICE). -/
def Obligations.ResetMeetsTheInvariants : Prop :=
  ∀ cfg, BlockInv (State.resetWith cfg) ∧ ShadowInv (State.resetWith cfg)

/-- R30, R34, R35: the shadow registers always say what the trace says. -/
def Obligations.ShadowsFollowTheTrace : Prop :=
  ∀ s t, ShadowInv s → step s = .next t → ShadowInv t

/-- In a state of the invariant the block has a next state, unless it waits in a quiescent state with no operation
presented (R24, R135, R136). A dispatch under an ill-formed configuration raises R175's Refuse; that this is a next
state, with the mark set, is the model's reading (log 6, DEDUCED). -/
def Obligations.TheBlockOnlyStopsWaiting : Prop :=
  ∀ s, BlockInv s → ¬ (isQuiescent s = true ∧ s.hostOps = []) → ∃ t, step s = .next t

/-- R41: the values the unwritten registers hold are never observed. Two states that differ only in registers no
later step reads before writing take steps that differ only there: the same events, the same stops. So the zeros of
log 3 reach nothing. -/
def Obligations.UnwrittenRegistersAreNeverObserved : Prop :=
  ∀ s t, liveView s = liveView t → liveOutcome (step s) = liveOutcome (step t)

/-! Whole operations. -/

/-- R132, R136, R166: from any quiescent state with a well-formed configuration, OP_INIT takes exactly
4 + N * (14 + AH) steps, emits INIT_TRACE and ends in READY, with every register as the rules leave it. It rests on
primitives that never fail or hang (log 21, DEDUCED; R190 says that this errs toward proving). That the operation is
taken off the input is the model's (logs 4, 23). -/
def Obligations.InitRunsToReady : Prop :=
  ∀ s rest, isQuiescent s = true → wellFormed s.cfg = true → s.hostOps = 0 :: rest →
    runSteps (4 + s.cfg.n * (14 + s.cfg.ah)) s = .next { s with
      hostOps := rest
      st := FsmState.ready.code
      k := BitVec.ofNat 2 s.cfg.n
      cs := csOf s.cfg (s.cfg.n - 1)
      y := coordOfNat (s.cfg.ah - 1)
      madctl := computeMadctl s.cfg
      inv := invEffective s.cfg
      clk := .div s.cfg.targetDiv
      ret := 0
      taskLive := false
      task := none
      open0 := if ∃ k, k < s.cfg.n ∧ csOf s.cfg k = 0 then s.cfg.dmaQueued else s.open0
      open1 := if ∃ k, k < s.cfg.n ∧ csOf s.cfg k = 1 then s.cfg.dmaQueued else s.open1
      bl := if s.cfg.backlightPin.isSome then .high else s.bl
      trace := s.trace ++ initTrace s.cfg }

/-- R169 to R171: from any quiescent state with a well-formed configuration, OP_DEINIT takes exactly
3 + N * (AH + 2) steps, emits DEINIT_TRACE and ends in the quiescent state it came from. It rests on primitives that
never fail or hang (log 21, DEDUCED; R190). That the operation is taken off the input is the model's (logs 4, 23). -/
def Obligations.DeinitClearsEveryPanelAndReturns : Prop :=
  ∀ s rest, isQuiescent s = true → wellFormed s.cfg = true → s.hostOps = 3 :: rest →
    runSteps (3 + s.cfg.n * (s.cfg.ah + 2)) s = .next { s with
      hostOps := rest
      k := BitVec.ofNat 2 s.cfg.n
      cs := csOf s.cfg (s.cfg.n - 1)
      y := coordOfNat (s.cfg.ah - 1)
      ret := 1
      qret := if s.st = FsmState.ready.code then 1 else 0
      taskLive := false
      task := none
      trace := s.trace ++ deinitTrace s.cfg }

/-- R106 and R171: the counts of a clear and of a de-initialisation, which emits window commands and pixel tasks
only. -/
def Obligations.ClearAndDeinitCounts : Prop :=
  (∀ cfg c, (clear cfg c).length = 8 * cfg.ah + 2 ∧
    (clear cfg c).countP isXfer = 2 * cfg.ah + 2 ∧
    (clear cfg c).countP isAlloc = cfg.ah ∧
    (∀ e ∈ clear cfg c, ∀ l n, e = .taskAlloc l n → l = c ∧ n = cfg.w * cfg.bppBytes)) ∧
  (∀ cfg, (deinitTrace cfg).length = cfg.n * (8 * cfg.ah + 2) ∧
    ∀ e ∈ deinitTrace cfg, isClearEvent cfg e = true)

/-- R132 and R134: the event count of PANEL, and every event of it that carries a line carries the panel's line. -/
def Obligations.PanelBlockCountAndLine : Prop :=
  ∀ cfg c, (panel cfg c).length =
      1 + 2 * (!cfg.fNoSwreset).toNat + 2 + (cfg.fGammaEnable || !cfg.fNoGamsetFrmctr).toNat + 2 + 2 + 1 + 2
        + (vscrollOn cfg (computeMadctl cfg)).toNat + (!cfg.fNoGamsetFrmctr).toNat + 2
        + 2 * cfg.backlightPin.isSome.toNat + (8 * cfg.ah + 2) + (!cfg.dmaQueued).toNat ∧
    ∀ e ∈ panel cfg c, eventLine e = none ∨ eventLine e = some c

/-- R132, R133 and R62: BEGIN, SLPOUT, COLMOD, MADCTL, NORON and DISPON occur exactly N times in INIT_TRACE, CLKDIV
exactly twice, the second time as the last event; the one barrier follows the first CLKDIV directly, before every
transfer; and between the barrier and the last CLKDIV stand the N panel blocks, the k-th on line csOf(k), and the settle
delay, nothing else. -/
def Obligations.InitRepeatsThePanelBlock : Prop :=
  (∀ cfg, cfg.opc.toList.Nodup →
    (initTrace cfg).countP isBegin = cfg.n ∧
    (initTrace cfg).countP (isXferOf cfg.opc.slpout) = cfg.n ∧
    (initTrace cfg).countP (isXferOf cfg.opc.colmod) = cfg.n ∧
    (initTrace cfg).countP (isXferOf cfg.opc.madctl) = cfg.n ∧
    (initTrace cfg).countP (isXferOf cfg.opc.noron) = cfg.n ∧
    (initTrace cfg).countP (isXferOf cfg.opc.dispon) = cfg.n) ∧
  (∀ cfg, (initTrace cfg).countP isClkdiv = 2 ∧
    ∃ pre mid, initTrace cfg = pre ++ [.clkdiv cfg.slowDiv, .barrier] ++ mid ++ [.clkdiv cfg.targetDiv] ∧
      mid = (List.range cfg.n).flatMap (fun k => panel cfg (csOf cfg k)) ++ [.delay cfg.t.settle] ∧
      (∀ e ∈ pre, e ≠ .barrier ∧ isXfer e = false) ∧ (∀ e ∈ mid, e ≠ .barrier))

/-- R205: the least time an Init can take is the sum of its delays. -/
def Obligations.InitDelayTotal : Prop :=
  (∀ cfg, delayTotal (initTrace cfg) = minInitTime cfg) ∧ (∀ cfg, delayTotal (deinitTrace cfg) = 0)

/-- R63: whatever follows an Init, every event of it must be performed before every later one, except that its last
event, the restore of the divisor, is unordered against what follows it. The contract is the model's reading of R63
(log 27, DEDUCED). Where what follows holds the BARRIER of another Init, that the restore stays unordered against the
events after it is the model's choice (log 28, DESIGN CHOICE). -/
def Obligations.InitIsOrderedExceptForTheRestore : Prop :=
  ∀ cfg later i j, later.head? ≠ some .barrier → i < j → j < (initTrace cfg ++ later).length →
    (mustPrecede (initTrace cfg ++ later) i j = true ∨ (initTrace cfg).length ≤ i ∨
      i = (initTrace cfg).length - 1) ∧
    mustPrecede (initTrace cfg ++ later) ((initTrace cfg).length - 1) j = false

/-- R107: under the observer of R60 (not normative, log 22), with a RAM at least W columns wide, a clear of a line leaves
every cell (x, y) with x < W and y < AH black, the off-screen rows included, and every other cell as it was. What the
observer does with pixels outside the RAM or past their window (log 29) plays no part: a clear has none. -/
def Obligations.ClearBlackensTheWholePanel : Prop :=
  ∀ cfg c o, wellFormed cfg = true → cfg.w ≤ o.wRam →
    (∀ x y, x < cfg.w → y < cfg.ah →
      isBlack (observeAll cfg o (clear cfg c)) { line := c, x := x, y := y } = true) ∧
    (∀ p, p.line ≠ c ∨ cfg.w ≤ p.x ∨ cfg.ah ≤ p.y →
      isBlack (observeAll cfg o (clear cfg c)) p = isBlack o p)
end

