-- ==== Sys2Proof/Laws/Checks.lean ====
section
/-! SUPPORT. The configuration checks: the verdict and the first failure say the same, and what a well-formed
configuration gives. -/

namespace Sys2Proof

open Machine

theorem firstFailed_eq_none_iff (l : List (RefuseReason × Bool)) :
    firstFailed l = none ↔ l.all (fun c => c.2) = true := by
  induction l with
  | nil => simp [firstFailed]
  | cons c l ih =>
    obtain ⟨r, ok⟩ := c
    cases ok <;> simp [firstFailed, ih]

/-- A configuration is well-formed exactly when no check fails. -/
theorem firstFailedCheck_eq_none_iff (cfg : Config) : firstFailedCheck cfg = none ↔ wellFormed cfg = true :=
  firstFailed_eq_none_iff _

theorem wellFormed_eq_false {cfg : Config} {r : RefuseReason} (h : firstFailedCheck cfg = some r) :
    wellFormed cfg = false := by
  cases hw : wellFormed cfg with
  | false => rfl
  | true => rw [(firstFailedCheck_eq_none_iff cfg).mpr hw] at h; cases h

/-- No two entries equal, as the library says it. -/
theorem allDistinct_iff (l : List Byte) : allDistinct l = true ↔ l.Nodup := by
  induction l with
  | nil => simp [allDistinct]
  | cons b l ih =>
    simp only [allDistinct, Bool.and_eq_true, List.all_eq_true, bne_iff_ne, List.nodup_cons, ih]
    refine and_congr_left fun _ => ⟨fun h hb => h b hb rfl, fun h x hx he => h (he ▸ hx)⟩

/-- Each check passes in a well-formed configuration. -/
theorem checks_of_wellFormed {cfg : Config} (h : wellFormed cfg = true) :
    checkGeometry cfg = true ∧ checkFinalRange cfg = true ∧ checkCursor8Range cfg = true ∧
      checkPanelCount cfg = true ∧ checkBpp cfg = true ∧ checkVscrollOffset cfg = true ∧
      checkMadctlMasks cfg = true ∧ checkOpcodes cfg = true ∧ checkClkdiv cfg = true ∧
      checkPins cfg = true := by
  simpa [wellFormed, configChecks] using h

theorem geometry_of_wellFormed {cfg : Config} (h : wellFormed cfg = true) :
    1 ≤ cfg.w ∧ cfg.w ≤ 65536 ∧ 1 ≤ cfg.h ∧ cfg.h ≤ cfg.ah ∧ cfg.ah ≤ 65536 := by
  simpa [checkGeometry] using (checks_of_wellFormed h).1

theorem panelCount_of_wellFormed {cfg : Config} (h : wellFormed cfg = true) : cfg.n = 1 ∨ cfg.n = 2 := by
  simpa [checkPanelCount] using (checks_of_wellFormed h).2.2.2.1

theorem bpp_of_wellFormed {cfg : Config} (h : wellFormed cfg = true) : 1 ≤ cfg.bppBytes := by
  simpa [checkBpp] using (checks_of_wellFormed h).2.2.2.2.1

theorem opcodes_of_wellFormed {cfg : Config} (h : wellFormed cfg = true) : cfg.opc.toList.Nodup :=
  (allDistinct_iff _).mp (checks_of_wellFormed h).2.2.2.2.2.2.2.1

/-- In a well-formed configuration the reset pin is not the backlight pin. -/
theorem pins_of_wellFormed {cfg : Config} (h : wellFormed cfg = true) {p : Pin} (hp : cfg.resetPin = some p) :
    cfg.backlightPin ≠ some p := by
  have := (checks_of_wellFormed h).2.2.2.2.2.2.2.2.2
  simp only [checkPins, hp, Bool.and_eq_true, Bool.or_eq_true, bne_iff_ne] at this
  rcases this.2 with h | h
  · cases h
  · exact fun he => h he.symm

/-- Every coordinate the FSM sends fits the bus mode of a well-formed configuration (R54, R80). -/
theorem coordFits_of_wellFormed {cfg : Config} (h : wellFormed cfg = true) {v : Nat}
    (hv : v < cfg.w ∨ v < cfg.ah ∨ v ≤ cfg.finalXEnd ∨ v ≤ cfg.finalYEnd) :
    v < 65536 ∧ coordFits cfg (coordOfNat v) = true := by
  have hg := geometry_of_wellFormed h
  have hf : cfg.finalXEnd ≤ 65535 ∧ cfg.finalYEnd ≤ 65535 := by
    simpa [checkFinalRange] using (checks_of_wellFormed h).2.1
  have hlt : v < 65536 := by omega
  refine ⟨hlt, ?_⟩
  unfold coordFits
  cases hm : cfg.busMode with
  | bmDefault => rfl
  | bmBus16 => rfl
  | bmCursor8 =>
    have hc : cfg.w ≤ 256 ∧ cfg.ah ≤ 256 ∧ cfg.finalXEnd ≤ 255 ∧ cfg.finalYEnd ≤ 255 := by
      simpa [checkCursor8Range, hm] using (checks_of_wellFormed h).2.2.1
    simp only [decide_eq_true_eq, coordOfNat, BitVec.toNat_ofNat, Nat.mod_eq_of_lt hlt]
    omega

end Sys2Proof
end

