-- ==== Sys2Proof/Laws/Framing.lean ====
section
/-! SUPPORT. Framing and its inverse: what a receiver reads off a framed operand is the operand. -/

namespace Sys2Proof

theorem hi8_toNat (v : Coord) : (hi8 v).toNat = v.toNat / 256 := by
  simp only [hi8, BitVec.extractLsb'_toNat, Nat.shiftRight_eq_div_pow]
  omega

theorem lo8_toNat (v : Coord) : (lo8 v).toNat = v.toNat % 256 := by
  simp [lo8, BitVec.extractLsb'_toNat]

theorem hi8_append_lo8 (v : Coord) : (hi8 v ++ lo8 v : BitVec 16) = v := by
  apply BitVec.eq_of_toNat_eq
  rw [BitVec.toNat_append, hi8_toNat, lo8_toNat, ← Nat.shiftLeft_add_eq_or_of_lt (by omega),
    Nat.shiftLeft_eq]
  omega

theorem zero_append_lo8 {v : Coord} (h : v.toNat ≤ 255) : (0#8 ++ lo8 v : BitVec 16) = v := by
  apply BitVec.eq_of_toNat_eq
  rw [BitVec.toNat_append, lo8_toNat, ← Nat.shiftLeft_add_eq_or_of_lt (by omega), Nat.shiftLeft_eq]
  simp
  omega

theorem coordOfNat_toNat {n : Nat} (h : n < 65536) : (coordOfNat n).toNat = n := by
  simp [coordOfNat, Nat.mod_eq_of_lt h]

@[simp] theorem takeScalar_frameScalar (cfg : Config) (b : Byte) (rest : List Byte) :
    takeScalar cfg (frameScalar cfg b ++ rest) = some (b, rest) := by
  unfold takeScalar frameScalar
  split <;> simp_all

@[simp] theorem takeScalars_frameScalars (cfg : Config) (bs rest : List Byte) :
    takeScalars cfg bs.length (frameScalars cfg bs ++ rest) = some (bs, rest) := by
  induction bs with
  | nil => simp [takeScalars, frameScalars]
  | cons b bs ih => simp [takeScalars, frameScalars, List.append_assoc, ih]

theorem takeCoord_frameCoord {cfg : Config} {v : Coord} (h : coordFits cfg v = true) (rest : List Byte) :
    takeCoord cfg (frameCoord cfg v ++ rest) = some (v, rest) := by
  unfold takeCoord frameCoord
  unfold coordFits at h
  cases hm : cfg.busMode <;> simp_all [hi8_append_lo8, zero_append_lo8]

theorem takePair_coordPair {cfg : Config} {a b : Coord} (ha : coordFits cfg a = true)
    (hb : coordFits cfg b = true) (rest : List Byte) :
    takePair cfg (coordPair cfg a b ++ rest) = some ((a, b), rest) := by
  simp [takePair, coordPair, List.append_assoc, takeCoord_frameCoord ha, takeCoord_frameCoord hb]

@[simp] theorem takeZeros_replicate (n : Nat) (rest : List Byte) :
    takeZeros n (List.replicate n 0#8 ++ rest) = some rest := by
  induction n with
  | zero => simp [takeZeros]
  | succ n ih => simp [takeZeros, List.replicate_succ, ih]

/-! The other direction: what is read off a list was framed there. -/

theorem frameScalar_of_takeScalar {cfg : Config} {bytes rest : List Byte} {b : Byte}
    (h : takeScalar cfg bytes = some (b, rest)) : bytes = frameScalar cfg b ++ rest := by
  unfold takeScalar at h
  unfold frameScalar
  split at h
  · rename_i hp
    rw [if_pos hp]
    split at h
    · split at h <;> simp_all
    · cases h
  · rename_i hp
    rw [if_neg hp]
    split at h <;> simp_all

theorem frameScalars_of_takeScalars {cfg : Config} {n : Nat} {bytes rest bs : List Byte}
    (h : takeScalars cfg n bytes = some (bs, rest)) :
    bytes = frameScalars cfg bs ++ rest ∧ bs.length = n := by
  induction n generalizing bytes bs with
  | zero => simp [takeScalars] at h; simp [h, frameScalars]
  | succ n ih =>
    unfold takeScalars at h
    split at h
    · cases h
    · rename_i b r hb
      split at h
      · cases h
      · rename_i bs' r' hbs
        obtain ⟨rfl, rfl⟩ : b :: bs' = bs ∧ r' = rest := by simpa using h
        obtain ⟨hr, hl⟩ := ih hbs
        simp [frameScalars, frameScalar_of_takeScalar hb, hr, hl]

theorem hi8_append (hi lo : Byte) : hi8 (hi ++ lo) = hi := by
  apply BitVec.eq_of_toNat_eq
  rw [hi8_toNat, BitVec.toNat_append, ← Nat.shiftLeft_add_eq_or_of_lt (by omega), Nat.shiftLeft_eq]
  omega

theorem lo8_append (hi lo : Byte) : lo8 (hi ++ lo) = lo := by
  apply BitVec.eq_of_toNat_eq
  rw [lo8_toNat, BitVec.toNat_append, ← Nat.shiftLeft_add_eq_or_of_lt (by omega), Nat.shiftLeft_eq]
  omega

theorem frameCoord_of_takeCoord {cfg : Config} {bytes rest : List Byte} {v : Coord}
    (h : takeCoord cfg bytes = some (v, rest)) :
    bytes = frameCoord cfg v ++ rest ∧ coordFits cfg v = true := by
  unfold takeCoord at h
  unfold frameCoord coordFits
  cases hm : cfg.busMode <;> simp only [hm] at h
  · split at h
    · obtain ⟨rfl, rfl⟩ := by simpa using h
      simp [hi8_append, lo8_append]
    · cases h
  · split at h
    · split at h
      · rename_i hfg
        obtain ⟨rfl, rfl⟩ := by simpa using h
        simp [hi8_append, lo8_append, hfg]
      · cases h
    · cases h
  · split at h
    · rename_i lo r
      obtain ⟨rfl, rfl⟩ := by simpa using h
      refine ⟨by simp [lo8_append], ?_⟩
      have hb : (0#8 ++ lo : BitVec 16).toNat = lo.toNat := by
        rw [BitVec.toNat_append, ← Nat.shiftLeft_add_eq_or_of_lt lo.isLt]
        simp
      have := lo.isLt
      simp only [hb, decide_eq_true_eq]
      omega
    · cases h

theorem coordPair_of_takePair {cfg : Config} {bytes rest : List Byte} {a b : Coord}
    (h : takePair cfg bytes = some ((a, b), rest)) :
    bytes = coordPair cfg a b ++ rest ∧ coordFits cfg a = true ∧ coordFits cfg b = true := by
  unfold takePair at h
  split at h
  · cases h
  · rename_i a' r ha
    split at h
    · cases h
    · rename_i b' r' hb
      obtain ⟨⟨rfl, rfl⟩, rfl⟩ := by simpa using h
      obtain ⟨e1, f1⟩ := frameCoord_of_takeCoord ha
      obtain ⟨e2, f2⟩ := frameCoord_of_takeCoord hb
      simp [coordPair, e1, e2, f1, f2]

theorem replicate_of_takeZeros {n : Nat} {bytes rest : List Byte} (h : takeZeros n bytes = some rest) :
    bytes = List.replicate n 0#8 ++ rest := by
  induction n generalizing bytes with
  | zero => simp_all [takeZeros]
  | succ n ih =>
    cases bytes with
    | nil => cases h
    | cons b bs =>
      unfold takeZeros at h
      split at h
      · rename_i hb
        simp [List.replicate_succ, hb, ih h]
      · cases h

/-! The opcode map. -/

theorem findRow_some {b : Byte} {rows : List (Byte × Cmd)} {c : Cmd} (h : findRow b rows = some c) :
    (b, c) ∈ rows := by
  induction rows with
  | nil => cases h
  | cons r rows ih =>
    obtain ⟨o, d⟩ := r
    unfold findRow at h
    split at h
    · simp_all
    · exact List.mem_cons_of_mem _ (ih h)

theorem findRow_none {b : Byte} {rows : List (Byte × Cmd)} :
    findRow b rows = none ↔ ∀ r ∈ rows, r.1 ≠ b := by
  induction rows with
  | nil => simp [findRow]
  | cons r rows ih =>
    obtain ⟨o, d⟩ := r
    by_cases h : o = b <;> simp [findRow, h, ih]

end Sys2Proof
end

