-- ==== Sys2Proof/Laws/State.lean ====
section
/-! SUPPORT. One lemma per field for each update of the state: moving the FSM, refusing, the bracket and level
shadows, emitting an event. Later proofs cite these and do not unfold a record update. -/

namespace Sys2Proof.Machine

/-! `goto` writes `st` alone. -/

@[simp] theorem goto_cfg (S : FsmState) (s : State) : (goto S s).cfg = s.cfg := rfl
@[simp] theorem goto_hostOps (S : FsmState) (s : State) : (goto S s).hostOps = s.hostOps := rfl
@[simp] theorem goto_st (S : FsmState) (s : State) : (goto S s).st = S.code := rfl
@[simp] theorem goto_k (S : FsmState) (s : State) : (goto S s).k = s.k := rfl
@[simp] theorem goto_cs (S : FsmState) (s : State) : (goto S s).cs = s.cs := rfl
@[simp] theorem goto_y (S : FsmState) (s : State) : (goto S s).y = s.y := rfl
@[simp] theorem goto_madctl (S : FsmState) (s : State) : (goto S s).madctl = s.madctl := rfl
@[simp] theorem goto_inv (S : FsmState) (s : State) : (goto S s).inv = s.inv := rfl
@[simp] theorem goto_clk (S : FsmState) (s : State) : (goto S s).clk = s.clk := rfl
@[simp] theorem goto_ret (S : FsmState) (s : State) : (goto S s).ret = s.ret := rfl
@[simp] theorem goto_qret (S : FsmState) (s : State) : (goto S s).qret = s.qret := rfl
@[simp] theorem goto_taskLive (S : FsmState) (s : State) : (goto S s).taskLive = s.taskLive := rfl
@[simp] theorem goto_open0 (S : FsmState) (s : State) : (goto S s).open0 = s.open0 := rfl
@[simp] theorem goto_open1 (S : FsmState) (s : State) : (goto S s).open1 = s.open1 := rfl
@[simp] theorem goto_bl (S : FsmState) (s : State) : (goto S s).bl = s.bl := rfl
@[simp] theorem goto_task (S : FsmState) (s : State) : (goto S s).task = s.task := rfl
@[simp] theorem goto_trace (S : FsmState) (s : State) : (goto S s).trace = s.trace := rfl
@[simp] theorem goto_refusedMark (S : FsmState) (s : State) : (goto S s).refusedMark = s.refusedMark := rfl

/-! `raiseRefuse` writes the refused mark alone (R175). -/

@[simp] theorem raiseRefuse_cfg (r : RefuseReason) (s : State) :
    (raiseRefuse r s).cfg = s.cfg := rfl
@[simp] theorem raiseRefuse_hostOps (r : RefuseReason) (s : State) :
    (raiseRefuse r s).hostOps = s.hostOps := rfl
@[simp] theorem raiseRefuse_st (r : RefuseReason) (s : State) :
    (raiseRefuse r s).st = s.st := rfl
@[simp] theorem raiseRefuse_k (r : RefuseReason) (s : State) :
    (raiseRefuse r s).k = s.k := rfl
@[simp] theorem raiseRefuse_cs (r : RefuseReason) (s : State) :
    (raiseRefuse r s).cs = s.cs := rfl
@[simp] theorem raiseRefuse_y (r : RefuseReason) (s : State) :
    (raiseRefuse r s).y = s.y := rfl
@[simp] theorem raiseRefuse_madctl (r : RefuseReason) (s : State) :
    (raiseRefuse r s).madctl = s.madctl := rfl
@[simp] theorem raiseRefuse_inv (r : RefuseReason) (s : State) :
    (raiseRefuse r s).inv = s.inv := rfl
@[simp] theorem raiseRefuse_clk (r : RefuseReason) (s : State) :
    (raiseRefuse r s).clk = s.clk := rfl
@[simp] theorem raiseRefuse_ret (r : RefuseReason) (s : State) :
    (raiseRefuse r s).ret = s.ret := rfl
@[simp] theorem raiseRefuse_qret (r : RefuseReason) (s : State) :
    (raiseRefuse r s).qret = s.qret := rfl
@[simp] theorem raiseRefuse_taskLive (r : RefuseReason) (s : State) :
    (raiseRefuse r s).taskLive = s.taskLive := rfl
@[simp] theorem raiseRefuse_open0 (r : RefuseReason) (s : State) :
    (raiseRefuse r s).open0 = s.open0 := rfl
@[simp] theorem raiseRefuse_open1 (r : RefuseReason) (s : State) :
    (raiseRefuse r s).open1 = s.open1 := rfl
@[simp] theorem raiseRefuse_bl (r : RefuseReason) (s : State) :
    (raiseRefuse r s).bl = s.bl := rfl
@[simp] theorem raiseRefuse_task (r : RefuseReason) (s : State) :
    (raiseRefuse r s).task = s.task := rfl
@[simp] theorem raiseRefuse_trace (r : RefuseReason) (s : State) :
    (raiseRefuse r s).trace = s.trace := rfl
@[simp] theorem raiseRefuse_refusedMark (r : RefuseReason) (s : State) :
    (raiseRefuse r s).refusedMark = some (s.refusedMark.getD r) := rfl

/-! `setOpen` and `setLevel` write one shadow. -/

@[simp] theorem setOpen_cfg (c : Line) (b : Bool) (s : State) : (setOpen c b s).cfg = s.cfg := by
  unfold setOpen; split <;> rfl
@[simp] theorem setOpen_hostOps (c : Line) (b : Bool) (s : State) : (setOpen c b s).hostOps = s.hostOps := by
  unfold setOpen; split <;> rfl
@[simp] theorem setOpen_st (c : Line) (b : Bool) (s : State) : (setOpen c b s).st = s.st := by
  unfold setOpen; split <;> rfl
@[simp] theorem setOpen_k (c : Line) (b : Bool) (s : State) : (setOpen c b s).k = s.k := by
  unfold setOpen; split <;> rfl
@[simp] theorem setOpen_cs (c : Line) (b : Bool) (s : State) : (setOpen c b s).cs = s.cs := by
  unfold setOpen; split <;> rfl
@[simp] theorem setOpen_y (c : Line) (b : Bool) (s : State) : (setOpen c b s).y = s.y := by
  unfold setOpen; split <;> rfl
@[simp] theorem setOpen_madctl (c : Line) (b : Bool) (s : State) : (setOpen c b s).madctl = s.madctl := by
  unfold setOpen; split <;> rfl
@[simp] theorem setOpen_inv (c : Line) (b : Bool) (s : State) : (setOpen c b s).inv = s.inv := by
  unfold setOpen; split <;> rfl
@[simp] theorem setOpen_clk (c : Line) (b : Bool) (s : State) : (setOpen c b s).clk = s.clk := by
  unfold setOpen; split <;> rfl
@[simp] theorem setOpen_ret (c : Line) (b : Bool) (s : State) : (setOpen c b s).ret = s.ret := by
  unfold setOpen; split <;> rfl
@[simp] theorem setOpen_qret (c : Line) (b : Bool) (s : State) : (setOpen c b s).qret = s.qret := by
  unfold setOpen; split <;> rfl
@[simp] theorem setOpen_taskLive (c : Line) (b : Bool) (s : State) : (setOpen c b s).taskLive = s.taskLive := by
  unfold setOpen; split <;> rfl
@[simp] theorem setOpen_open0 (c : Line) (b : Bool) (s : State) :
    (setOpen c b s).open0 = if c = 0 then b else s.open0 := by
  unfold setOpen; split <;> rfl
@[simp] theorem setOpen_open1 (c : Line) (b : Bool) (s : State) :
    (setOpen c b s).open1 = if c = 0 then s.open1 else b := by
  unfold setOpen; split <;> rfl
@[simp] theorem setOpen_bl (c : Line) (b : Bool) (s : State) : (setOpen c b s).bl = s.bl := by
  unfold setOpen; split <;> rfl
@[simp] theorem setOpen_task (c : Line) (b : Bool) (s : State) : (setOpen c b s).task = s.task := by
  unfold setOpen; split <;> rfl
@[simp] theorem setOpen_trace (c : Line) (b : Bool) (s : State) : (setOpen c b s).trace = s.trace := by
  unfold setOpen; split <;> rfl
@[simp] theorem setOpen_refusedMark (c : Line) (b : Bool) (s : State) : (setOpen c b s).refusedMark = s.refusedMark := by
  unfold setOpen; split <;> rfl
@[simp] theorem setLevel_cfg (p : Pin) (l : Backlight) (s : State) : (setLevel p l s).cfg = s.cfg := by
  unfold setLevel; split <;> rfl
@[simp] theorem setLevel_hostOps (p : Pin) (l : Backlight) (s : State) : (setLevel p l s).hostOps = s.hostOps := by
  unfold setLevel; split <;> rfl
@[simp] theorem setLevel_st (p : Pin) (l : Backlight) (s : State) : (setLevel p l s).st = s.st := by
  unfold setLevel; split <;> rfl
@[simp] theorem setLevel_k (p : Pin) (l : Backlight) (s : State) : (setLevel p l s).k = s.k := by
  unfold setLevel; split <;> rfl
@[simp] theorem setLevel_cs (p : Pin) (l : Backlight) (s : State) : (setLevel p l s).cs = s.cs := by
  unfold setLevel; split <;> rfl
@[simp] theorem setLevel_y (p : Pin) (l : Backlight) (s : State) : (setLevel p l s).y = s.y := by
  unfold setLevel; split <;> rfl
@[simp] theorem setLevel_madctl (p : Pin) (l : Backlight) (s : State) : (setLevel p l s).madctl = s.madctl := by
  unfold setLevel; split <;> rfl
@[simp] theorem setLevel_inv (p : Pin) (l : Backlight) (s : State) : (setLevel p l s).inv = s.inv := by
  unfold setLevel; split <;> rfl
@[simp] theorem setLevel_clk (p : Pin) (l : Backlight) (s : State) : (setLevel p l s).clk = s.clk := by
  unfold setLevel; split <;> rfl
@[simp] theorem setLevel_ret (p : Pin) (l : Backlight) (s : State) : (setLevel p l s).ret = s.ret := by
  unfold setLevel; split <;> rfl
@[simp] theorem setLevel_qret (p : Pin) (l : Backlight) (s : State) : (setLevel p l s).qret = s.qret := by
  unfold setLevel; split <;> rfl
@[simp] theorem setLevel_taskLive (p : Pin) (l : Backlight) (s : State) : (setLevel p l s).taskLive = s.taskLive := by
  unfold setLevel; split <;> rfl
@[simp] theorem setLevel_open0 (p : Pin) (l : Backlight) (s : State) : (setLevel p l s).open0 = s.open0 := by
  unfold setLevel; split <;> rfl
@[simp] theorem setLevel_open1 (p : Pin) (l : Backlight) (s : State) : (setLevel p l s).open1 = s.open1 := by
  unfold setLevel; split <;> rfl
@[simp] theorem setLevel_bl (p : Pin) (l : Backlight) (s : State) :
    (setLevel p l s).bl = if s.cfg.backlightPin = some p then l else s.bl := by
  unfold setLevel; split <;> rfl
@[simp] theorem setLevel_task (p : Pin) (l : Backlight) (s : State) : (setLevel p l s).task = s.task := by
  unfold setLevel; split <;> rfl
@[simp] theorem setLevel_trace (p : Pin) (l : Backlight) (s : State) : (setLevel p l s).trace = s.trace := by
  unfold setLevel; split <;> rfl
@[simp] theorem setLevel_refusedMark (p : Pin) (l : Backlight) (s : State) : (setLevel p l s).refusedMark = s.refusedMark := by
  unfold setLevel; split <;> rfl

/-! `emit` appends to the trace and writes shadow registers and the task, nothing else. -/

@[simp] theorem emit_cfg (e : Event) (s : State) : (emit e s).cfg = s.cfg := by
  cases e <;> simp [emit, shadow]
@[simp] theorem emit_hostOps (e : Event) (s : State) : (emit e s).hostOps = s.hostOps := by
  cases e <;> simp [emit, shadow]
@[simp] theorem emit_st (e : Event) (s : State) : (emit e s).st = s.st := by
  cases e <;> simp [emit, shadow]
@[simp] theorem emit_k (e : Event) (s : State) : (emit e s).k = s.k := by
  cases e <;> simp [emit, shadow]
@[simp] theorem emit_cs (e : Event) (s : State) : (emit e s).cs = s.cs := by
  cases e <;> simp [emit, shadow]
@[simp] theorem emit_y (e : Event) (s : State) : (emit e s).y = s.y := by
  cases e <;> simp [emit, shadow]
@[simp] theorem emit_madctl (e : Event) (s : State) : (emit e s).madctl = s.madctl := by
  cases e <;> simp [emit, shadow]
@[simp] theorem emit_inv (e : Event) (s : State) : (emit e s).inv = s.inv := by
  cases e <;> simp [emit, shadow]
@[simp] theorem emit_ret (e : Event) (s : State) : (emit e s).ret = s.ret := by
  cases e <;> simp [emit, shadow]
@[simp] theorem emit_qret (e : Event) (s : State) : (emit e s).qret = s.qret := by
  cases e <;> simp [emit, shadow]
@[simp] theorem emit_refusedMark (e : Event) (s : State) : (emit e s).refusedMark = s.refusedMark := by
  cases e <;> simp [emit, shadow]
@[simp] theorem emit_trace (e : Event) (s : State) : (emit e s).trace = s.trace ++ [e] := by
  cases e <;> simp [emit, shadow]
@[simp] theorem emitAll_cfg (es : List Event) (s : State) : (emitAll es s).cfg = s.cfg := by
  induction es generalizing s with
  | nil => rfl
  | cons e es ih => simp [emitAll, ih]
@[simp] theorem emitAll_hostOps (es : List Event) (s : State) : (emitAll es s).hostOps = s.hostOps := by
  induction es generalizing s with
  | nil => rfl
  | cons e es ih => simp [emitAll, ih]
@[simp] theorem emitAll_st (es : List Event) (s : State) : (emitAll es s).st = s.st := by
  induction es generalizing s with
  | nil => rfl
  | cons e es ih => simp [emitAll, ih]
@[simp] theorem emitAll_k (es : List Event) (s : State) : (emitAll es s).k = s.k := by
  induction es generalizing s with
  | nil => rfl
  | cons e es ih => simp [emitAll, ih]
@[simp] theorem emitAll_cs (es : List Event) (s : State) : (emitAll es s).cs = s.cs := by
  induction es generalizing s with
  | nil => rfl
  | cons e es ih => simp [emitAll, ih]
@[simp] theorem emitAll_y (es : List Event) (s : State) : (emitAll es s).y = s.y := by
  induction es generalizing s with
  | nil => rfl
  | cons e es ih => simp [emitAll, ih]
@[simp] theorem emitAll_madctl (es : List Event) (s : State) : (emitAll es s).madctl = s.madctl := by
  induction es generalizing s with
  | nil => rfl
  | cons e es ih => simp [emitAll, ih]
@[simp] theorem emitAll_inv (es : List Event) (s : State) : (emitAll es s).inv = s.inv := by
  induction es generalizing s with
  | nil => rfl
  | cons e es ih => simp [emitAll, ih]
@[simp] theorem emitAll_ret (es : List Event) (s : State) : (emitAll es s).ret = s.ret := by
  induction es generalizing s with
  | nil => rfl
  | cons e es ih => simp [emitAll, ih]
@[simp] theorem emitAll_qret (es : List Event) (s : State) : (emitAll es s).qret = s.qret := by
  induction es generalizing s with
  | nil => rfl
  | cons e es ih => simp [emitAll, ih]
@[simp] theorem emitAll_refusedMark (es : List Event) (s : State) : (emitAll es s).refusedMark = s.refusedMark := by
  induction es generalizing s with
  | nil => rfl
  | cons e es ih => simp [emitAll, ih]
@[simp] theorem emitAll_trace (es : List Event) (s : State) : (emitAll es s).trace = s.trace ++ es := by
  induction es generalizing s with
  | nil => simp [emitAll]
  | cons e es ih => simp [emitAll, ih]

/-- Emitting two lists is emitting their concatenation. -/
theorem emitAll_append (es fs : List Event) (s : State) :
    emitAll (es ++ fs) s = emitAll fs (emitAll es s) := by
  induction es generalizing s with
  | nil => rfl
  | cons e es ih => simp [emitAll, ih]

/-! Events that write no register append to the trace and do nothing else. -/

@[simp] theorem emit_xfer (c : Line) (o : Byte) (a : List Byte) (s : State) :
    emit (.xfer c o a) s = { s with trace := s.trace ++ [.xfer c o a] } := rfl
@[simp] theorem emit_delay (t : Nat) (s : State) :
    emit (.delay t) s = { s with trace := s.trace ++ [.delay t] } := rfl
@[simp] theorem emit_barrier (s : State) :
    emit .barrier s = { s with trace := s.trace ++ [.barrier] } := rfl
@[simp] theorem emit_gpioMode (p : Pin) (s : State) :
    emit (.gpioMode p) s = { s with trace := s.trace ++ [.gpioMode p] } := rfl
@[simp] theorem emit_clkdiv (d : Nat) (s : State) :
    emit (.clkdiv d) s = { s with trace := s.trace ++ [.clkdiv d], clk := .div d } := rfl

/-- The events that write no register and no task. -/
def writesNothing : Event → Bool
  | .gpioMode _ | .delay _ | .barrier | .xfer _ _ _ | .taskCommit | .taskExec => true
  | .gpioSet _ | .gpioClr _ | .clkdiv _ | .beginTx _ | .endTx _ => false
  | .taskAlloc _ _ | .taskTag _ | .taskFill0 | .taskRelease => false

/-- A list of such events only grows the trace. -/
theorem emitAll_writesNothing {es : List Event} (h : ∀ e ∈ es, writesNothing e = true) (s : State) :
    emitAll es s = { s with trace := s.trace ++ es } := by
  induction es generalizing s with
  | nil => simp [emitAll]
  | cons e es ih =>
    have he : emit e s = { s with trace := s.trace ++ [e] } := by
      have := h e List.mem_cons_self
      cases e <;> first | rfl | cases this
    rw [emitAll, he, ih (fun e he => h e (List.mem_cons_of_mem _ he))]
    simp

/-! Events that write a shadow register write that one and the trace. -/

@[simp] theorem emit_gpioSet (p : Pin) (s : State) :
    emit (.gpioSet p) s = { s with
      trace := s.trace ++ [.gpioSet p]
      bl := if s.cfg.backlightPin = some p then .high else s.bl } := by
  simp only [emit, shadow, setLevel]; split <;> rfl
@[simp] theorem emit_gpioClr (p : Pin) (s : State) :
    emit (.gpioClr p) s = { s with
      trace := s.trace ++ [.gpioClr p]
      bl := if s.cfg.backlightPin = some p then .low else s.bl } := by
  simp only [emit, shadow, setLevel]; split <;> rfl
@[simp] theorem emit_beginTx (c : Line) (s : State) :
    emit (.beginTx c) s = { s with
      trace := s.trace ++ [.beginTx c]
      open0 := if c = 0 then true else s.open0
      open1 := if c = 0 then s.open1 else true } := by
  simp only [emit, shadow, setOpen]; split <;> rfl
@[simp] theorem emit_endTx (c : Line) (s : State) :
    emit (.endTx c) s = { s with
      trace := s.trace ++ [.endTx c]
      open0 := if c = 0 then false else s.open0
      open1 := if c = 0 then s.open1 else false } := by
  simp only [emit, shadow, setOpen]; split <;> rfl

/-- A whole pixel task leaves only its events in the trace: no task is live after it (R103). -/
theorem emitAll_pixrow (cfg : Config) (c : Line) (s : State) :
    emitAll (pixrow cfg c) s =
      { s with trace := s.trace ++ pixrow cfg c, taskLive := false, task := none } := by
  simp [pixrow, emitAll, emit, shadow]

end Sys2Proof.Machine
end

