-- ==== Sys2Proof/Laws/Ops.lean ====
section
/-! SUPPORT. What each shared operation can do, said once; later proofs cite these and unfold none of them. -/

namespace Sys2Proof.Machine

/-! Commands. -/

@[simp] theorem sendCommand_eq (o : Byte) (a : List Byte) (s : State) :
    sendCommand o a s = { s with trace := s.trace ++ [.xfer s.cs o a] } := rfl

@[simp] theorem sendCommandThenWait_eq (o : Byte) (a : List Byte) (t : Nat) (s : State) :
    sendCommandThenWait o a t s = { s with trace := s.trace ++ [.xfer s.cs o a, .delay t] } := by
  simp [sendCommandThenWait]

/-! Outcomes. -/

@[simp] theorem andThen_next (s : State) (f : State → Host.Outcome State Fault Refusal) :
    andThen (.next s) f = f s := rfl

/-- A sequence answers a next state only through a next state of its first part. -/
theorem andThen_eq_next {o : Host.Outcome State Fault Refusal}
    {f : State → Host.Outcome State Fault Refusal} {t : State} (h : andThen o f = .next t) :
    ∃ u, o = .next u ∧ f u = .next t := by
  cases o with
  | next u => exact ⟨u, rfl, h⟩
  | fault r => cases h
  | refused r => cases h

/-! Quiescent states. -/

theorem isQuiescent_iff {s : State} :
    isQuiescent s = true ↔ s.st = FsmState.idle.code ∨ s.st = FsmState.ready.code := by
  simp [isQuiescent]

/-! Dispatch (R165). -/

theorem dispatch_refused {body : State → State} {s : State} {r : RefuseReason}
    (hq : isQuiescent s = true) (hr : firstFailedCheck s.cfg = some r) :
    dispatch body s = .next (raiseRefuse r s) := by
  simp [dispatch, hq, hr]

theorem dispatch_accepted {body : State → State} {s : State}
    (hq : isQuiescent s = true) (hr : firstFailedCheck s.cfg = none) :
    dispatch body s = .next (body s) := by
  simp [dispatch, hq, hr]

theorem dispatch_busy {body : State → State} {s : State} (hq : isQuiescent s = false) :
    dispatch body s = .fault .operationNotRead := by
  simp [dispatch, hq]

/-- All a dispatch can do: refuse or run the body, and only in a quiescent state. -/
theorem dispatch_eq_next {body : State → State} {s t : State} (h : dispatch body s = .next t) :
    isQuiescent s = true ∧
      ((∃ r, firstFailedCheck s.cfg = some r ∧ t = raiseRefuse r s) ∨
        (firstFailedCheck s.cfg = none ∧ t = body s)) := by
  unfold dispatch at h
  split at h
  · rename_i hq
    refine ⟨hq, ?_⟩
    split at h
    · rename_i r hr
      cases h
      exact .inl ⟨r, hr, rfl⟩
    · rename_i hr
      cases h
      exact .inr ⟨hr, rfl⟩
  · cases h

/-! State codes (R22, R23). -/

@[simp] theorem ofCode_code (S : FsmState) : FsmState.ofCode S.code = some S := by
  cases S <;> decide

theorem code_of_ofCode {c : BitVec 5} {S : FsmState} (h : FsmState.ofCode c = some S) : c = S.code := by
  have := List.find?_some h
  simpa using (beq_iff_eq.mp this).symm

theorem ofCode_eq_none_iff (c : BitVec 5) : FsmState.ofCode c = none ↔ 22 ≤ c.toNat := by
  revert c; decide

theorem code_toNat_le (S : FsmState) : S.code.toNat ≤ 21 := by cases S <;> decide

theorem isQuiescent_of_ofCode {s : State} {S : FsmState} (h : FsmState.ofCode s.st = some S) :
    isQuiescent s = S.quiescent := by
  simp only [isQuiescent, code_of_ofCode h]
  cases S <;> decide

theorem code_injective {S T : FsmState} (h : S.code = T.code) : S = T := by
  have h1 := ofCode_code S
  rw [h, ofCode_code T] at h1
  exact (Option.some.inj h1).symm

end Sys2Proof.Machine
end

