-- ==== Sys2Proof/Laws/Fsm.lean ====
section
/-! SUPPORT. What one step can do, said once: a busy state emits its events and then writes its registers; a
quiescent state runs the presented operation, refused or accepted. Proofs about every step start here. -/

namespace Sys2Proof.Machine

/-! Commands. -/

/-- The events of a controller command on line c. -/
def commandEvents (cfg : Config) (c : Line) : Instr → List Event
  | .swreset => [.xfer c cfg.opc.swreset [], .delay cfg.t.swreset]
  | .slpout => [.xfer c cfg.opc.slpout [], .delay cfg.t.slpout]
  | .noron => [.xfer c cfg.opc.noron [], .delay cfg.t.noron]
  | .invoff => [.xfer c cfg.opc.invoff []]
  | .invon => [.xfer c cfg.opc.invon []]
  | .gamset b => [.xfer c cfg.opc.gamset (frameScalar cfg b)]
  | .dispon => [.xfer c cfg.opc.dispon [], .delay cfg.t.dispon]
  | .caset xs xe => [.xfer c cfg.opc.caset (coordPair cfg xs xe)]
  | .raset ys ye => [.xfer c cfg.opc.raset (coordPair cfg ys ye)]
  | .ramwr => pixrow cfg c
  | .madctl m => [.xfer c cfg.opc.madctl (frameScalar cfg m), .delay cfg.t.madctl]
  | .vscrsadd off => [.xfer c cfg.opc.vscrsadd (frameCoord cfg off)]
  | .colmod b => [.xfer c cfg.opc.colmod (frameScalar cfg b), .delay cfg.t.colmod]
  | .frmctr1 args => [.xfer c cfg.opc.frmctr1 (frameScalars cfg args)]
  | .dgmen b => [.xfer c cfg.opc.dgmen (frameScalar cfg b)]
  | .opInit | .opDisplayOn | .opDisplayOff | .opDeinit => []

/-- A controller command emits its events and does nothing else. -/
theorem exec_command {i : Instr} (h : i.isHostOp = false) (s : State) :
    exec i s = .next (emitAll (commandEvents s.cfg s.cs i) s) := by
  cases i <;> first | rfl | cases h

/-- A list of controller commands emits the events of each in order. -/
theorem execAll_commands {l : List Instr} (h : ∀ i ∈ l, i.isHostOp = false) (s : State) :
    execAll l s = .next (emitAll (l.flatMap (commandEvents s.cfg s.cs)) s) := by
  induction l generalizing s with
  | nil => rfl
  | cons i l ih =>
    rw [execAll, exec_command (h i List.mem_cons_self), andThen_next,
      ih (fun j hj => h j (List.mem_cons_of_mem _ hj))]
    simp [emitAll_append]

/-- The FSM issues controller commands only. -/
theorem commandsOf_isHostOp (S : FsmState) (s : State) : ∀ i ∈ commandsOf S s, i.isHostOp = false := by
  intro i hi
  cases S <;> simp only [commandsOf] at hi <;> (try split at hi) <;> (try split at hi) <;>
    simp only [List.mem_cons, List.not_mem_nil, or_false] at hi <;>
    first
      | (subst hi; rfl)
      | (rcases hi with rfl | rfl | rfl <;> rfl)

theorem perform_eq (S : FsmState) (f : State → State) (s : State) :
    perform S f s = .next (f (emitAll ((commandsOf S s).flatMap (commandEvents s.cfg s.cs)) s)) := by
  simp [perform, execAll_commands (commandsOf_isHostOp S s)]

/-! Busy states. -/

/-- The events a busy state emits. -/
def stateEvents (S : FsmState) (s : State) : List Event :=
  match S with
  | .reset => resetEvents s.cfg
  | .slowclk => [.clkdiv s.cfg.slowDiv, .barrier]
  | .pBegin => [.beginTx s.cs]
  | .bklt => backlightEvents s.cfg
  | .pEnd => endEvents s.cfg s.cs
  | .restore => [.delay s.cfg.t.settle, .clkdiv s.cfg.targetDiv]
  | .idle | .ready | .dStart | .dNext => []
  | .swreset | .slpout | .gamma | .pixfmt | .addrmode | .invert | .partoff | .vscroll | .frmrate | .dispon
  | .clrRow | .clrFinal => (commandsOf S s).flatMap (commandEvents s.cfg s.cs)

/-- The registers a busy state writes, from their values in `s` at the start of the step. -/
def stateWrites (S : FsmState) (s t : State) : State :=
  match S with
  | .reset => goto .slowclk t
  | .slowclk => goto .pBegin { t with k := 0, cs := csOf s.cfg 0 }
  | .pBegin => goto .swreset t
  | .swreset => goto .slpout t
  | .slpout => goto .gamma t
  | .gamma => goto .pixfmt t
  | .pixfmt => goto .addrmode t
  | .addrmode => goto .invert { t with madctl := computeMadctl s.cfg }
  | .invert => goto .partoff { t with inv := invEffective s.cfg }
  | .partoff => goto .vscroll t
  | .vscroll => goto .frmrate t
  | .frmrate => goto .dispon t
  | .dispon => goto .bklt t
  | .bklt => goto .clrRow { t with y := 0, ret := 0 }
  | .clrRow => if s.y.toNat + 1 < s.cfg.ah then { t with y := s.y + 1 } else goto .clrFinal t
  | .clrFinal => goto (if s.ret = 0 then .pEnd else .dNext) t
  | .pEnd =>
    if s.k.toNat + 1 < s.cfg.n then
      goto .pBegin { t with k := s.k + 1, cs := csOf s.cfg (s.k.toNat + 1) }
    else goto .restore { t with k := s.k + 1 }
  | .restore => goto .ready t
  | .dStart => goto .dNext { t with k := 0 }
  | .dNext =>
    if s.k.toNat < s.cfg.n then
      goto .clrRow { t with cs := csOf s.cfg s.k.toNat, k := s.k + 1, y := 0, ret := 1 }
    else goto (if s.qret = 1 then .ready else .idle) t
  | .idle | .ready => t

/-- A busy state always has a next state: its events, then its register writes. -/
theorem stepState_busy {S : FsmState} (hS : S.quiescent = false) (s : State) :
    stepState S s = .next (stateWrites S s (emitAll (stateEvents S s) s)) := by
  cases S <;> first | (cases hS; done) | skip
  all_goals
    simp only [stepState, stepSwreset, stepSlpout, stepGamma, stepPixfmt, stepAddrmode, stepInvert,
      stepPartoff, stepVscroll, stepFrmrate, stepDispon, stepClrRow, stepClrFinal, perform_eq,
      stateWrites, stateEvents]
  all_goals rfl

/-! `stateWrites` writes `st`, `k`, `cs`, `y`, `madctl`, `inv` and `ret` only. -/

@[simp] theorem stateWrites_cfg (S : FsmState) (s t : State) : (stateWrites S s t).cfg = t.cfg := by
  cases S <;> simp [stateWrites] <;> split <;> simp
@[simp] theorem stateWrites_hostOps (S : FsmState) (s t : State) : (stateWrites S s t).hostOps = t.hostOps := by
  cases S <;> simp [stateWrites] <;> split <;> simp
@[simp] theorem stateWrites_qret (S : FsmState) (s t : State) : (stateWrites S s t).qret = t.qret := by
  cases S <;> simp [stateWrites] <;> split <;> simp
@[simp] theorem stateWrites_taskLive (S : FsmState) (s t : State) : (stateWrites S s t).taskLive = t.taskLive := by
  cases S <;> simp [stateWrites] <;> split <;> simp
@[simp] theorem stateWrites_task (S : FsmState) (s t : State) : (stateWrites S s t).task = t.task := by
  cases S <;> simp [stateWrites] <;> split <;> simp
@[simp] theorem stateWrites_trace (S : FsmState) (s t : State) : (stateWrites S s t).trace = t.trace := by
  cases S <;> simp [stateWrites] <;> split <;> simp
@[simp] theorem stateWrites_refusedMark (S : FsmState) (s t : State) : (stateWrites S s t).refusedMark = t.refusedMark := by
  cases S <;> simp [stateWrites] <;> split <;> simp
@[simp] theorem stateWrites_clk (S : FsmState) (s t : State) : (stateWrites S s t).clk = t.clk := by
  cases S <;> simp [stateWrites] <;> split <;> simp
@[simp] theorem stateWrites_open0 (S : FsmState) (s t : State) : (stateWrites S s t).open0 = t.open0 := by
  cases S <;> simp [stateWrites] <;> split <;> simp
@[simp] theorem stateWrites_open1 (S : FsmState) (s t : State) : (stateWrites S s t).open1 = t.open1 := by
  cases S <;> simp [stateWrites] <;> split <;> simp
@[simp] theorem stateWrites_bl (S : FsmState) (s t : State) : (stateWrites S s t).bl = t.bl := by
  cases S <;> simp [stateWrites] <;> split <;> simp

/-! The step. -/

theorem step_of_ofCode {s : State} {S : FsmState} (h : FsmState.ofCode s.st = some S) :
    step s = stepState S s := by
  simp [step, stepBlock, h]

theorem step_of_code {s : State} {S : FsmState} (h : s.st = S.code) : step s = stepState S s :=
  step_of_ofCode (by rw [h]; exact ofCode_code S)

theorem step_busy {s : State} {S : FsmState} (h : FsmState.ofCode s.st = some S) (hS : S.quiescent = false) :
    step s = .next (stateWrites S s (emitAll (stateEvents S s) s)) := by
  rw [step_of_ofCode h, stepState_busy hS]

theorem step_quiescent {s : State} {S : FsmState} (h : FsmState.ofCode s.st = some S)
    (hS : S.quiescent = true) : step s = stepQuiescent s := by
  rw [step_of_ofCode h]
  cases S <;> first | rfl | cases hS

/-- The body of the operation of a code. -/
def opBody (code : BitVec 2) : State → State :=
  if code = 0 then goto .reset
  else if code = 1 then displayOnBody
  else if code = 2 then displayOffBody
  else deinitBody

theorem exec_decodeHostOp (code : BitVec 2) (s : State) :
    exec (decodeHostOp code) s = dispatch (opBody code) s := by
  unfold decodeHostOp opBody
  split
  · rfl
  · split
    · rfl
    · split <;> rfl

/-- The events of an accepted operation: a level event on the backlight pin, or none. -/
def opEvents (code : BitVec 2) (cfg : Config) : List Event :=
  if code = 1 then cfg.backlightPin.toList.map .gpioSet
  else if code = 2 then cfg.backlightPin.toList.map .gpioClr
  else []

/-- The registers an accepted operation writes. -/
def opWrites (code : BitVec 2) (t : State) : State :=
  if code = 0 then goto .reset t
  else if code = 3 then goto .dStart { t with qret := if t.st = FsmState.ready.code then 1 else 0 }
  else t

theorem code_cases (code : BitVec 2) : code = 0 ∨ code = 1 ∨ code = 2 ∨ code = 3 := by
  revert code; decide

/-- An accepted operation emits its events, then writes its registers. -/
theorem opBody_eq (code : BitVec 2) (s : State) :
    opBody code s = opWrites code (emitAll (opEvents code s.cfg) s) := by
  rcases code_cases code with rfl | rfl | rfl | rfl
  · rfl
  · show displayOnBody s = emitAll (s.cfg.backlightPin.toList.map .gpioSet) s
    unfold displayOnBody
    cases s.cfg.backlightPin <;> rfl
  · show displayOffBody s = emitAll (s.cfg.backlightPin.toList.map .gpioClr) s
    unfold displayOffBody
    cases s.cfg.backlightPin <;> rfl
  · rfl

/-! `opWrites` writes `st` and `qret` only. -/

@[simp] theorem opWrites_cfg (code : BitVec 2) (t : State) : (opWrites code t).cfg = t.cfg := by
  unfold opWrites; split <;> [rfl; (split <;> rfl)]
@[simp] theorem opWrites_hostOps (code : BitVec 2) (t : State) : (opWrites code t).hostOps = t.hostOps := by
  unfold opWrites; split <;> [rfl; (split <;> rfl)]
@[simp] theorem opWrites_k (code : BitVec 2) (t : State) : (opWrites code t).k = t.k := by
  unfold opWrites; split <;> [rfl; (split <;> rfl)]
@[simp] theorem opWrites_cs (code : BitVec 2) (t : State) : (opWrites code t).cs = t.cs := by
  unfold opWrites; split <;> [rfl; (split <;> rfl)]
@[simp] theorem opWrites_y (code : BitVec 2) (t : State) : (opWrites code t).y = t.y := by
  unfold opWrites; split <;> [rfl; (split <;> rfl)]
@[simp] theorem opWrites_madctl (code : BitVec 2) (t : State) : (opWrites code t).madctl = t.madctl := by
  unfold opWrites; split <;> [rfl; (split <;> rfl)]
@[simp] theorem opWrites_inv (code : BitVec 2) (t : State) : (opWrites code t).inv = t.inv := by
  unfold opWrites; split <;> [rfl; (split <;> rfl)]
@[simp] theorem opWrites_ret (code : BitVec 2) (t : State) : (opWrites code t).ret = t.ret := by
  unfold opWrites; split <;> [rfl; (split <;> rfl)]
@[simp] theorem opWrites_taskLive (code : BitVec 2) (t : State) : (opWrites code t).taskLive = t.taskLive := by
  unfold opWrites; split <;> [rfl; (split <;> rfl)]
@[simp] theorem opWrites_task (code : BitVec 2) (t : State) : (opWrites code t).task = t.task := by
  unfold opWrites; split <;> [rfl; (split <;> rfl)]
@[simp] theorem opWrites_trace (code : BitVec 2) (t : State) : (opWrites code t).trace = t.trace := by
  unfold opWrites; split <;> [rfl; (split <;> rfl)]
@[simp] theorem opWrites_refusedMark (code : BitVec 2) (t : State) : (opWrites code t).refusedMark = t.refusedMark := by
  unfold opWrites; split <;> [rfl; (split <;> rfl)]
@[simp] theorem opWrites_clk (code : BitVec 2) (t : State) : (opWrites code t).clk = t.clk := by
  unfold opWrites; split <;> [rfl; (split <;> rfl)]
@[simp] theorem opWrites_open0 (code : BitVec 2) (t : State) : (opWrites code t).open0 = t.open0 := by
  unfold opWrites; split <;> [rfl; (split <;> rfl)]
@[simp] theorem opWrites_open1 (code : BitVec 2) (t : State) : (opWrites code t).open1 = t.open1 := by
  unfold opWrites; split <;> [rfl; (split <;> rfl)]
@[simp] theorem opWrites_bl (code : BitVec 2) (t : State) : (opWrites code t).bl = t.bl := by
  unfold opWrites; split <;> [rfl; (split <;> rfl)]

/-- All a step can do. -/
theorem step_cases {s t : State} (h : step s = .next t) :
    ∃ S, FsmState.ofCode s.st = some S ∧
      ((S.quiescent = false ∧ t = stateWrites S s (emitAll (stateEvents S s) s)) ∨
        (S.quiescent = true ∧ ∃ code rest, s.hostOps = code :: rest ∧
          ((∃ r, firstFailedCheck s.cfg = some r ∧ t = raiseRefuse r { s with hostOps := rest }) ∨
            (firstFailedCheck s.cfg = none ∧
              t = opWrites code (emitAll (opEvents code s.cfg) { s with hostOps := rest }))))) := by
  cases hS : FsmState.ofCode s.st with
  | none => simp [step, stepBlock, hS] at h
  | some S =>
    refine ⟨S, rfl, ?_⟩
    cases hq : S.quiescent with
    | false =>
      rw [step_busy hS hq] at h
      cases h
      exact .inl ⟨rfl, rfl⟩
    | true =>
      rw [step_quiescent hS hq, stepQuiescent] at h
      cases hop : s.hostOps with
      | nil => simp [hop] at h
      | cons code rest =>
        simp only [hop, exec_decodeHostOp] at h
        have hd := (dispatch_eq_next h).2
        rw [opBody_eq] at hd
        exact .inr ⟨rfl, code, rest, rfl, hd⟩

end Sys2Proof.Machine
end

