-- ==== Sys2Proof/Laws/Memory.lean ====
section
/-! SUPPORT. The payload buffer: every operation keeps the canonical form, a read after a write. -/

namespace Sys2Proof.Machine

/-- The canonical form as a proposition. -/
theorem Memory.wf_cons {a : Nat} {v : Byte} {m : Memory} :
    Memory.wf ((a, v) :: m) = true ↔ (∀ c ∈ m, a < c.1) ∧ Memory.wf m = true := by
  simp [Memory.wf]

theorem Memory.wf_nil : Memory.wf [] = true := rfl

/-- Every offset of the memory after a write is the written one or an old one. -/
theorem Memory.mem_write {m : Memory} {x : Nat} {v : Byte} {c : Host.Cell}
    (h : c ∈ Memory.write m x v) : c.1 = x ∨ ∃ d ∈ m, d.1 = c.1 := by
  induction m with
  | nil => simp [Memory.write] at h; simp [h]
  | cons d m ih =>
    obtain ⟨a, u⟩ := d
    unfold Memory.write at h
    split at h
    · rcases List.mem_cons.mp h with rfl | h
      · exact .inl rfl
      · exact .inr ⟨c, h, rfl⟩
    · split at h
      · rcases List.mem_cons.mp h with rfl | h
        · exact .inl (by simp_all)
        · exact .inr ⟨c, List.mem_cons_of_mem _ h, rfl⟩
      · rcases List.mem_cons.mp h with rfl | h
        · exact .inr ⟨_, List.mem_cons_self, rfl⟩
        · rcases ih h with h | ⟨d, hd, he⟩
          · exact .inl h
          · exact .inr ⟨d, List.mem_cons_of_mem _ hd, he⟩

/-- A write keeps the canonical form. -/
theorem Memory.wf_write {m : Memory} (h : Memory.wf m = true) (x : Nat) (v : Byte) :
    Memory.wf (Memory.write m x v) = true := by
  induction m with
  | nil => simp [Memory.write, Memory.wf]
  | cons d m ih =>
    obtain ⟨a, u⟩ := d
    obtain ⟨ha, hm⟩ := Memory.wf_cons.mp h
    unfold Memory.write
    split
    · rename_i hx
      refine Memory.wf_cons.mpr ⟨fun c hc => ?_, h⟩
      rcases List.mem_cons.mp hc with rfl | hc
      · exact hx
      · exact lt_trans hx (ha c hc)
    · split
      · exact Memory.wf_cons.mpr ⟨ha, hm⟩
      · rename_i h1 h2
        refine Memory.wf_cons.mpr ⟨fun c hc => ?_, ih hm⟩
        rcases Memory.mem_write hc with he | ⟨d, hd, he⟩
        · omega
        · exact he ▸ ha d hd

/-- Writing a range keeps the canonical form. -/
theorem Memory.wf_writeRange {m : Memory} (h : Memory.wf m = true) (off n : Nat) (v : Byte) :
    Memory.wf (Memory.writeRange m off n v) = true := by
  induction n generalizing off with
  | zero => exact h
  | succ n ih => exact Memory.wf_write (ih (off + 1)) off v

/-- No entry of a memory that starts above x is at x. -/
theorem Memory.read_eq_none {m : Memory} {x : Nat} (h : ∀ c ∈ m, x < c.1) : Memory.read m x = none := by
  induction m with
  | nil => rfl
  | cons d m ih =>
    obtain ⟨a, u⟩ := d
    have ha : x < a := h (a, u) List.mem_cons_self
    simp [Memory.read, Nat.ne_of_lt ha, ih (fun c hc => h c (List.mem_cons_of_mem _ hc))]

/-- A read after a write: the written value at its offset, the old value elsewhere. -/
theorem Memory.read_write {m : Memory} (h : Memory.wf m = true) (x y : Nat) (v : Byte) :
    Memory.read (Memory.write m x v) y = if y = x then some v else Memory.read m y := by
  induction m with
  | nil => simp [Memory.write, Memory.read]
  | cons d m ih =>
    obtain ⟨a, u⟩ := d
    obtain ⟨ha, hm⟩ := Memory.wf_cons.mp h
    unfold Memory.write
    split
    · simp [Memory.read]
    · split
      · rename_i h1 h2
        subst h2
        by_cases hy : y = x <;> simp [Memory.read, hy]
      · rename_i h1 h2
        simp only [Memory.read, ih hm]
        by_cases hy : y = a
        · have : y ≠ x := by omega
          simp [hy, Ne.symm h2]
        · simp [hy]

/-- A read after writing a range. -/
theorem Memory.read_writeRange {m : Memory} (h : Memory.wf m = true) (off n y : Nat) (v : Byte) :
    Memory.read (Memory.writeRange m off n v) y =
      if off ≤ y ∧ y < off + n then some v else Memory.read m y := by
  induction n generalizing off with
  | zero =>
    have : ¬ (off ≤ y ∧ y < off + 0) := by omega
    rw [if_neg this]; rfl
  | succ n ih =>
    rw [Memory.writeRange, Memory.read_write (Memory.wf_writeRange h _ _ _), ih]
    by_cases hy : y = off
    · simp [hy]
    · have : (off + 1 ≤ y ∧ y < off + 1 + n) ↔ (off ≤ y ∧ y < off + (n + 1)) := by omega
      simp only [hy, if_false, this]

/-- The buffer of an allocated task is canonical, and zero-filling keeps it so. -/
theorem wf_allocTask (c : Line) (n : Nat) : Memory.wf (allocTask c n).buf = true := rfl

theorem wf_tagTask (o : Byte) (t : PixelTask) : (tagTask o t).buf = t.buf := rfl

theorem wf_zeroFill {t : PixelTask} (h : Memory.wf t.buf = true) : Memory.wf (zeroFill t).buf = true :=
  Memory.wf_writeRange h _ _ _

/-- The buffer of the state's task, if there is one, is canonical. -/
def TaskBufferWf (s : State) : Prop := ∀ t, s.task = some t → Memory.wf t.buf = true

/-- Every event keeps the live task's buffer canonical. -/
theorem taskBufferWf_emit {s : State} (h : TaskBufferWf s) (e : Event) : TaskBufferWf (emit e s) := by
  intro t ht
  cases e with
  | taskAlloc c n => simp only [emit, shadow, Option.some.injEq] at ht; subst ht; rfl
  | taskTag o =>
    simp only [emit, shadow, Option.map_eq_some_iff] at ht
    obtain ⟨u, hu, rfl⟩ := ht
    exact h u hu
  | taskFill0 =>
    simp only [emit, shadow, Option.map_eq_some_iff] at ht
    obtain ⟨u, hu, rfl⟩ := ht
    exact wf_zeroFill (h u hu)
  | taskRelease => simp [emit, shadow] at ht
  | gpioSet p => exact h t (by simpa [emit, shadow, setLevel, apply_ite State.task] using ht)
  | gpioClr p => exact h t (by simpa [emit, shadow, setLevel, apply_ite State.task] using ht)
  | beginTx c => exact h t (by simpa [emit, shadow, setOpen, apply_ite State.task] using ht)
  | endTx c => exact h t (by simpa [emit, shadow, setOpen, apply_ite State.task] using ht)
  | gpioMode p => exact h t ht
  | delay d => exact h t ht
  | clkdiv d => exact h t ht
  | barrier => exact h t ht
  | xfer c o a => exact h t ht
  | taskCommit => exact h t ht
  | taskExec => exact h t ht

/-- At reset no task is live, so its buffer is trivially canonical. -/
theorem taskBufferWf_reset : TaskBufferWf State.reset := by
  intro t ht; cases ht

end Sys2Proof.Machine
end

