-- ==== Sys2Proof/Laws/Observer.lean ====
section
/-! SUPPORT. What the observer of R60 can do, said once: no event changes the size of its RAM, and an event only adds
writes, to cells of that RAM. -/

namespace Sys2Proof.Machine

/-- The observer of a trace in two parts. -/
theorem observeAll_append (cfg : Config) (o : Observer) (a b : List Event) :
    observeAll cfg o (a ++ b) = observeAll cfg (observeAll cfg o a) b := List.foldl_append

/-- A task writes cells of the RAM only. -/
theorem pixelWrites_inRam {cfg : Config} {o : Observer} {t : ObservedTask} {p : PixelCell}
    (h : p ∈ pixelWrites cfg o t) : p.x < o.wRam ∧ p.y < cfg.ah := by
  simpa [inRam] using (List.mem_filter.mp h).2

/-- All an event can do to the RAM: its width stays, and writes are added, each to a cell of the RAM. -/
theorem observe_cases (cfg : Config) (o : Observer) (e : Event) :
    (observe cfg o e).wRam = o.wRam ∧
      ∃ ws, (observe cfg o e).writes = ws ++ o.writes ∧ ∀ w ∈ ws, w.1.x < o.wRam ∧ w.1.y < cfg.ah := by
  have same : ∃ ws, o.writes = ws ++ o.writes ∧ ∀ w ∈ ws, w.1.x < o.wRam ∧ w.1.y < cfg.ah :=
    ⟨[], rfl, by simp⟩
  cases e <;> try exact ⟨rfl, same⟩
  case xfer c op a =>
    simp only [observe]
    split <;> exact ⟨rfl, same⟩
  case taskExec =>
    simp only [observe]
    split
    · rename_i t _
      split
      · refine ⟨rfl, _, rfl, fun w hw => ?_⟩
        obtain ⟨p, hp, rfl⟩ := List.mem_map.mp hw
        exact pixelWrites_inRam hp
      · exact ⟨rfl, same⟩
    · exact ⟨rfl, same⟩

@[simp] theorem observe_wRam (cfg : Config) (o : Observer) (e : Event) : (observe cfg o e).wRam = o.wRam :=
  (observe_cases cfg o e).1

@[simp] theorem observeAll_wRam (cfg : Config) (o : Observer) (tr : List Event) :
    (observeAll cfg o tr).wRam = o.wRam := by
  induction tr generalizing o with
  | nil => rfl
  | cons e tr ih => exact (ih _).trans (observe_wRam cfg o e)

/-- Every recorded write of a trace is to a cell of the RAM. -/
theorem observeAll_writes_inRam {cfg : Config} {o : Observer} (tr : List Event)
    (h : ∀ w ∈ o.writes, w.1.x < o.wRam ∧ w.1.y < cfg.ah) :
    ∀ w ∈ (observeAll cfg o tr).writes, w.1.x < o.wRam ∧ w.1.y < cfg.ah := by
  induction tr generalizing o with
  | nil => exact h
  | cons e tr ih =>
    obtain ⟨hr, ws, hw, hin⟩ := observe_cases cfg o e
    have key := ih (o := observe cfg o e) fun w hm => by
      rw [hw] at hm
      rw [hr]
      exact (List.mem_append.mp hm).elim (hin w) (h w)
    rwa [hr] at key

end Sys2Proof.Machine
end

