-- ==== Sys2Proof/Laws/PerInstr.lean ====
section
/-! SUPPORT. Statements about each instruction as syntax, one lemma per constructor. `ArgFraming`: the argument
length of R75's table, by form and bus width mode. -/

namespace Sys2Proof.Laws.ArgFraming

/-- The bytes of one framed scalar (R75, row F_SCALAR1). -/
def scalarBytes (cfg : Config) : Nat :=
  match cfg.busMode with
  | .bmDefault => 1
  | .bmBus16 => if cfg.padScalar16 then 2 else 1
  | .bmCursor8 => 1

/-- The bytes of one framed coordinate (R75, row F_COORD1). -/
def coordBytes (cfg : Config) : Nat :=
  match cfg.busMode with
  | .bmDefault => 2
  | .bmBus16 => 4
  | .bmCursor8 => 1

/-- The argument length of an instruction (R75); a host operation is no transfer. -/
def argBytes (cfg : Config) : Instr → Nat
  | .swreset | .slpout | .noron | .invoff | .invon | .dispon => 0
  | .gamset _ | .dgmen _ | .colmod _ | .madctl _ => scalarBytes cfg
  | .frmctr1 args => args.length * scalarBytes cfg
  | .vscrsadd _ => coordBytes cfg
  | .caset _ _ | .raset _ _ => 2 * coordBytes cfg
  | .ramwr => cfg.w * cfg.bppBytes
  | .opInit | .opDisplayOn | .opDisplayOff | .opDeinit => 0

/-- The encoder's argument list is as long as R75's table says, in every configuration. -/
def Statement (i : Instr) : Prop := ∀ cfg, (encodeArgs cfg i).length = argBytes cfg i

theorem frameScalar_length (cfg : Config) (b : Byte) : (frameScalar cfg b).length = scalarBytes cfg := by
  unfold frameScalar padsScalar scalarBytes
  cases cfg.busMode <;> cases cfg.padScalar16 <;> rfl

theorem frameScalars_length (cfg : Config) (bs : List Byte) :
    (frameScalars cfg bs).length = bs.length * scalarBytes cfg := by
  induction bs with
  | nil => simp [frameScalars]
  | cons b bs ih => simp [frameScalars, frameScalar_length, ih, Nat.add_mul, Nat.add_comm]

theorem frameCoord_length (cfg : Config) (v : Coord) : (frameCoord cfg v).length = coordBytes cfg := by
  unfold frameCoord coordBytes
  cases cfg.busMode <;> rfl

theorem coordPair_length (cfg : Config) (a b : Coord) : (coordPair cfg a b).length = 2 * coordBytes cfg := by
  simp [coordPair, frameCoord_length, Nat.two_mul]

theorem swreset : Statement .swreset := fun _ => rfl
theorem slpout : Statement .slpout := fun _ => rfl
theorem noron : Statement .noron := fun _ => rfl
theorem invoff : Statement .invoff := fun _ => rfl
theorem invon : Statement .invon := fun _ => rfl
theorem gamset (b : Byte) : Statement (.gamset b) := fun cfg => frameScalar_length cfg b
theorem dispon : Statement .dispon := fun _ => rfl
theorem caset (xs xe : Coord) : Statement (.caset xs xe) := fun cfg => coordPair_length cfg xs xe
theorem raset (ys ye : Coord) : Statement (.raset ys ye) := fun cfg => coordPair_length cfg ys ye
theorem ramwr : Statement .ramwr := fun cfg => by simp [encodeArgs, argBytes, taskSize]
theorem madctl (m : Byte) : Statement (.madctl m) := fun cfg => frameScalar_length cfg m
theorem vscrsadd (off : Coord) : Statement (.vscrsadd off) := fun cfg => frameCoord_length cfg off
theorem colmod (b : Byte) : Statement (.colmod b) := fun cfg => frameScalar_length cfg b
theorem frmctr1 (args : List Byte) : Statement (.frmctr1 args) := fun cfg => frameScalars_length cfg args
theorem dgmen (b : Byte) : Statement (.dgmen b) := fun cfg => frameScalar_length cfg b
theorem opInit : Statement .opInit := fun _ => rfl
theorem opDisplayOn : Statement .opDisplayOn := fun _ => rfl
theorem opDisplayOff : Statement .opDisplayOff := fun _ => rfl
theorem opDeinit : Statement .opDeinit := fun _ => rfl

end Sys2Proof.Laws.ArgFraming
end

