-- ==== Sys2Proof/Laws/Runs.lean ====
section
/-! SUPPORT. Runs of several steps, put together from runs of fewer. -/

namespace Sys2Proof.Machine

@[simp] theorem runSteps_zero (s : State) : runSteps 0 s = .next s := rfl

theorem runSteps_succ (n : Nat) (s : State) : runSteps (n + 1) s = andThen (step s) (runSteps n) := rfl

theorem runSteps_one {s t : State} (h : step s = .next t) : runSteps 1 s = .next t := by
  rw [runSteps_succ, h]; rfl

/-- Two runs, one after the other. -/
theorem runSteps_add {m n : Nat} {s t u : State} (h1 : runSteps m s = .next t) (h2 : runSteps n t = .next u) :
    runSteps (m + n) s = .next u := by
  induction m generalizing s with
  | zero => cases h1; rwa [Nat.zero_add]
  | succ m ih =>
    obtain ⟨v, hv, h⟩ := andThen_eq_next h1
    rw [Nat.add_right_comm, runSteps_succ, hv, andThen_next]
    exact ih h

/-! The host's run. -/

theorem core_run_next (M : Host.Core) (n : Nat) {s t : M.State} (h : M.step s = .next t) :
    M.run (n + 1) s = M.run n t := by rw [Host.Core.run, h]
theorem core_run_fault (M : Host.Core) (n : Nat) {s : M.State} {r} (h : M.step s = .fault r) :
    M.run (n + 1) s = .fault r := by rw [Host.Core.run, h]
theorem core_run_refused (M : Host.Core) (n : Nat) {s : M.State} {r} (h : M.step s = .refused r) :
    M.run (n + 1) s = .refused r := by rw [Host.Core.run, h]

/-- A run in the model's terms is a run of the host's machine. -/
theorem runSteps_eq_core_run (n : Nat) (s : State) : runSteps n s = Host.Core.run Sys2Proof.core n s := by
  induction n generalizing s with
  | zero => rfl
  | succ n ih =>
    rw [runSteps_succ]
    cases h : step s with
    | next t => exact (ih t).trans (core_run_next Sys2Proof.core n h).symm
    | fault r => exact (core_run_fault Sys2Proof.core n h).symm
    | refused r => exact (core_run_refused Sys2Proof.core n h).symm

end Sys2Proof.Machine
end

