-- ==== Sys2Proof/Laws/Traces.lean ====
section
/-! SUPPORT. What the shadow registers and the task lifecycle say of a trace that two parts make up, and what one
event changes. -/

namespace Sys2Proof.Machine

theorem lastClkdiv_append (d : ClockShadow) (a b : List Event) :
    lastClkdiv d (a ++ b) = lastClkdiv (lastClkdiv d a) b := by
  induction a generalizing d with
  | nil => rfl
  | cons e a ih => cases e <;> simp [lastClkdiv, ih]

theorem bracketOpen_append (c : Line) (o : Bool) (a b : List Event) :
    bracketOpen c o (a ++ b) = bracketOpen c (bracketOpen c o a) b := by
  induction a generalizing o with
  | nil => rfl
  | cons e a ih => cases e <;> simp [bracketOpen, ih]

theorem lastLevel_append (p : Option Pin) (l : Backlight) (a b : List Event) :
    lastLevel p l (a ++ b) = lastLevel p (lastLevel p l a) b := by
  induction a generalizing l with
  | nil => rfl
  | cons e a ih => cases e <;> simp [lastLevel, ih]

theorem phaseAfter_append (p : TaskPhase) (a b : List Event) :
    phaseAfter p (a ++ b) = (phaseAfter p a).bind fun q => phaseAfter q b := by
  induction a generalizing p with
  | nil => rfl
  | cons e a ih =>
    simp only [List.cons_append, phaseAfter]
    cases nextPhase p e <;> simp [ih]

/-- The events of a busy state leave no task in progress. -/
theorem stateEvents_phase (S : FsmState) (s : State) : phaseAfter .free (stateEvents S s) = some .free := by
  cases S <;> simp only [stateEvents, commandsOf, resetEvents, backlightEvents, endEvents]
  all_goals (try split) <;> (try split) <;> simp [commandEvents, rstpulse, phaseAfter, nextPhase, pixrow]

/-- The events of an accepted operation contain no task event. -/
theorem opEvents_phase (code : BitVec 2) (cfg : Config) : phaseAfter .free (opEvents code cfg) = some .free := by
  unfold opEvents
  split <;> (try split) <;> cases cfg.backlightPin <;> simp [phaseAfter, nextPhase]

/-- A list whose lifecycle ends free, run from a state without a live task, leaves none. -/
theorem emitAll_noTask {evs : List Event} {s : State} (h : s.taskLive = false ∧ s.task = none)
    (he : phaseAfter .free evs = some .free) :
    (emitAll evs s).taskLive = false ∧ (emitAll evs s).task = none := by
  suffices key : ∀ (evs : List Event) (p q : TaskPhase) (s : State),
      (p = .free → s.taskLive = false ∧ s.task = none) → phaseAfter p evs = some q → q = .free →
      (emitAll evs s).taskLive = false ∧ (emitAll evs s).task = none from
    key evs .free .free s (fun _ => h) he rfl
  intro evs
  induction evs with
  | nil => intro p q s hs hp hq; cases hp; exact hs hq
  | cons e es ih =>
    intro p q s hs hp hq
    simp only [phaseAfter] at hp
    split at hp
    · rename_i r hr
      refine ih r q (emit e s) (fun hf => ?_) hp hq
      subst hf
      cases p <;> cases e <;> simp [nextPhase] at hr <;> simp [emit, shadow] <;> exact hs rfl
    · cases hp

end Sys2Proof.Machine
end

