-- ==== Sys2Proof/Tests/Slice0.lean ====
section
/-! SUPPORT. The model's own tests: well-formedness, decoding from words written out from the spec's encodings,
single steps against the vectors of `95_test_vectors.md`, and a witness for the hypotheses of each statement. -/

namespace Sys2Proof.Tests

open Sys2Proof Sys2Proof.Machine

/-! Helpers. -/

/-- The assumed configuration of the vectors in the default bus mode, one panel. -/
def cfg3 (w h ah : Nat) : Config := Config.assumed w h ah 1 .bmDefault

/-- The block in a state of the FSM, everything else as after reset. -/
def atState (S : FsmState) (cfg : Config) : State := goto S (State.resetWith cfg)

/-- The block in a quiescent state with one operation presented. -/
def presented (S : FsmState) (cfg : Config) (code : BitVec 2) : State :=
  { atState S cfg with hostOps := [code] }

/-- The events after an outcome. -/
def eventsOf (o : Host.Outcome State Fault Refusal) : Option (List Event) :=
  match o with
  | .next s => some s.trace
  | .fault _ => none
  | .refused _ => none

/-- A field of the next state. -/
def fieldOf {α : Type} (f : State → α) (o : Host.Outcome State Fault Refusal) : Option α :=
  match o with
  | .next s => some (f s)
  | .fault _ => none
  | .refused _ => none

/-- The decoder's answer on a transfer; none when rejected. -/
def dec (cfg : Config) (bytes : List Byte) : Option Instr :=
  match decode cfg (.transfer bytes) with
  | .ok i => some i
  | .error _ => none

/-- A configuration of each bus mode. -/
def cfgDefault : Config := Config.assumed 2 2 2 1 .bmDefault
def cfgBus16 : Config := Config.assumed 2 2 2 1 .bmBus16
def cfgCursor8 : Config := Config.assumed 2 2 2 1 .bmCursor8

/-! Ill-formed instructions are refused by the check, the boundary value is not (R54, R75, R80). -/

theorem test_wf_caset_start : (Instr.caset 256 0).wf cfgCursor8 = false := by decide
theorem test_wf_caset_end : (Instr.caset 0 256).wf cfgCursor8 = false := by decide
theorem test_wf_raset_start : (Instr.raset 256 0).wf cfgCursor8 = false := by decide
theorem test_wf_raset_end : (Instr.raset 0 256).wf cfgCursor8 = false := by decide
theorem test_wf_vscrsadd : (Instr.vscrsadd 256).wf cfgCursor8 = false := by decide
theorem test_wf_frmctr1 : (Instr.frmctr1 [6, 1]).wf cfgDefault = false := by decide
theorem test_wf_boundary :
    (Instr.caset 255 255).wf cfgCursor8 = true ∧ (Instr.caset 65535 65535).wf cfgBus16 = true ∧
      (Instr.frmctr1 [6, 1, 1]).wf cfgDefault = true := by decide

/-! Ill-formed configurations, V12: each check refuses, and the unchanged one passes. -/

theorem test_v12_geometry :
    firstFailedCheck (cfg3 0 160 160) = some .rfGeometry ∧
      firstFailedCheck (cfg3 128 161 160) = some .rfGeometry ∧
      firstFailedCheck { cfg3 128 160 65537 with finalYEnd := 0 } = some .rfGeometry := by decide
theorem test_v12_final_range :
    firstFailedCheck { cfg3 128 160 160 with finalYEnd := 70000 } = some .rfFinalRange := by decide
theorem test_v12_cursor8 :
    firstFailedCheck (Config.assumed 128 160 300 1 .bmCursor8) = some .rfCursor8Range ∧
      firstFailedCheck { Config.assumed 128 200 256 1 .bmCursor8 with finalXEnd := 256 } =
        some .rfCursor8Range ∧
      firstFailedCheck (Config.assumed 257 160 160 1 .bmCursor8) = some .rfCursor8Range := by decide
theorem test_v12_panel_count :
    firstFailedCheck { cfg3 128 160 160 with n := 0 } = some .rfPanelCount ∧
      firstFailedCheck { cfg3 128 160 160 with n := 3 } = some .rfPanelCount := by decide
theorem test_v12_bpp : firstFailedCheck { cfg3 128 160 160 with bppBytes := 0 } = some .rfBpp := by decide
theorem test_v12_vscroll :
    firstFailedCheck { cfg3 320 240 280 with fVscroll := true, ovRotate180 := true } =
      some .rfVscrollOffset ∧
    firstFailedCheck { cfg3 320 240 280 with fVscroll := false, ovRotate180 := true } = none := by decide
theorem test_v12_masks :
    firstFailedCheck { cfg3 128 160 160 with madctlMv := 0x30 } = some .rfMadctlMasks ∧
      firstFailedCheck { cfg3 128 160 160 with madctlMx := 0x80 } = some .rfMadctlMasks := by decide
theorem test_v12_opcodes :
    firstFailedCheck { cfg3 128 160 160 with opc := { Opcodes.assumed with invon := 0x20 } } =
      some .rfOpcodes := by decide
theorem test_v12_clkdiv :
    firstFailedCheck { cfg3 128 160 160 with targetDiv := 65536 } = some .rfClkdiv ∧
      firstFailedCheck { cfg3 128 160 160 with targetDiv := 65535 } = none := by decide
theorem test_v12_pins :
    firstFailedCheck { cfg3 128 160 160 with resetPin := some 18, backlightPin := some 18 } =
      some .rfPins ∧
    firstFailedCheck { cfg3 128 160 160 with resetPin := some 64 } = some .rfPins := by decide
theorem test_v12_first_of_two :
    firstFailedCheck { cfg3 0 160 160 with n := 3 } = some .rfGeometry := by decide
theorem test_v12_accepted : firstFailedCheck (cfg3 128 160 160) = none := by decide

/-! Decoding: one transfer for every command, the opcode byte of R78 and the argument bytes of R72 to R74. -/

theorem test_decode_none_forms :
    dec cfgDefault [0x01] = some .swreset ∧ dec cfgDefault [0x11] = some .slpout ∧
      dec cfgDefault [0x13] = some .noron ∧ dec cfgDefault [0x20] = some .invoff ∧
      dec cfgDefault [0x21] = some .invon ∧ dec cfgDefault [0x29] = some .dispon := by decide
theorem test_decode_scalar_forms :
    dec cfgDefault [0x26, 0x02] = some (.gamset 0x02) ∧ dec cfgDefault [0xBA, 0x04] = some (.dgmen 0x04) ∧
      dec cfgDefault [0x3A, 0x05] = some (.colmod 0x05) ∧
      dec cfgDefault [0x36, 0xC0] = some (.madctl 0xC0) := by decide
theorem test_decode_scalar_bus16 :
    dec cfgBus16 [0x26, 0x00, 0x02] = some (.gamset 0x02) ∧ dec cfgBus16 [0x26, 0x02, 0x02] = none ∧
      dec { cfgBus16 with padScalar16 := false } [0x26, 0x02] = some (.gamset 0x02) := by decide
theorem test_decode_frmctr1 :
    dec cfgDefault [0xB1, 0x06, 0x01, 0x01] = some (.frmctr1 [0x06, 0x01, 0x01]) ∧
      dec cfgBus16 [0xB1, 0x00, 0x06, 0x00, 0x01, 0x00, 0x01] = some (.frmctr1 [0x06, 0x01, 0x01]) := by decide
theorem test_decode_caset :
    dec cfgDefault [0x2A, 0x00, 0x00, 0x01, 0x3F] = some (.caset 0 319) ∧
      dec cfgBus16 [0x2A, 0x00, 0x00, 0x00, 0x00, 0x00, 0x01, 0x00, 0x3F] = some (.caset 0 319) ∧
      dec cfgCursor8 [0x2A, 0x00, 0x7F] = some (.caset 0 127) := by decide
theorem test_decode_raset :
    dec cfgDefault [0x2B, 0x01, 0x2C, 0x01, 0xDF] = some (.raset 300 479) ∧
      dec cfgBus16 [0x2B, 0x00, 0x01, 0x00, 0x2C, 0x00, 0x01, 0x00, 0xDF] = some (.raset 300 479) ∧
      dec cfgCursor8 [0x2B, 0x05, 0x9F] = some (.raset 5 159) := by decide
theorem test_decode_vscrsadd :
    dec cfgDefault [0x37, 0x01, 0x2C] = some (.vscrsadd 300) ∧
      dec cfgBus16 [0x37, 0x00, 0x01, 0x00, 0x2C] = some (.vscrsadd 300) ∧
      dec cfgCursor8 [0x37, 0xFF] = some (.vscrsadd 255) := by decide
theorem test_decode_ramwr :
    dec cfgDefault [0x2C, 0x00, 0x00, 0x00, 0x00] = some .ramwr ∧
      dec cfgDefault [0x2C, 0x00, 0x00, 0x00] = none ∧
      dec cfgDefault [0x2C, 0x00, 0x00, 0x01, 0x00] = none := by decide
theorem test_decode_host_ops :
    decodeHostOp 0 = .opInit ∧ decodeHostOp 1 = .opDisplayOn ∧ decodeHostOp 2 = .opDisplayOff ∧
      decodeHostOp 3 = .opDeinit := by decide
theorem test_decode_rejects :
    dec cfgDefault [] = none ∧ dec cfgDefault [0x10] = none ∧ dec cfgDefault [0x28] = none ∧
      dec cfgDefault [0x2A, 0x00, 0x00, 0x01] = none ∧ dec cfgDefault [0x11, 0x00] = none := by decide
theorem test_encode_caset :
    encode cfgDefault (.caset 0 127) = .transfer [0x2A, 0x00, 0x00, 0x00, 0x7F] := by decide

/-! The table's words, and that the step runs the instruction placed. -/

theorem test_table_words :
    decodeTableWord 8 0x11 = some .slpout ∧ decodeTableWord 8 0x36 = some (.madctl 0) ∧
      decodeTableWord 8 0xB1 = some (.frmctr1 [0, 0, 0]) ∧ decodeTableWord 40 0x3F010000_2A = some (.caset 0 319) ∧
      decodeTableWord 8 0x02 = some .opDisplayOff ∧ decodeTableWord 8 0xFF = none := by decide
theorem test_placed_command :
    eventsOf (step (State.reset.withFetchWord 8 0x21)) = some [.xfer 0 0x21 []] := by decide
theorem test_placed_coordinate :
    eventsOf (step (State.reset.withFetchWord 24 0x500037)) = some [.xfer 0 0x37 [0x00, 0x50]] := by decide
theorem test_placed_host_op :
    fieldOf (·.st) (step (State.reset.withFetchWord 2 0)) = some FsmState.reset.code := by decide

/-! Single steps and single commands against the vectors. -/

theorem test_swreset :
    eventsOf (step (atState .swreset cfgDefault)) = some [.xfer 0 0x01 [], .delay 120000] := by decide
theorem test_swreset_rejected_variant :
    eventsOf (step (atState .swreset { cfgDefault with fNoSwreset := true })) = some [] := by decide
theorem test_slpout :
    eventsOf (exec .slpout { State.reset with cs := 1 }) = some [.xfer 1 0x11 [], .delay 120000] := by decide
theorem test_gamset_bus16 :
    eventsOf (step (atState .gamma cfgBus16)) = some [.xfer 0 0x26 [0x00, 0x02]] := by decide
theorem test_gamset_left_out :
    eventsOf (step (atState .gamma { cfgDefault with fNoGamsetFrmctr := true })) = some [] := by decide
theorem test_dgmen_wins :
    eventsOf (step (atState .gamma { cfgDefault with fGammaEnable := true, fNoGamsetFrmctr := true })) =
      some [.xfer 0 0xBA [0x04]] := by decide
theorem test_colmod :
    eventsOf (step (atState .pixfmt cfgDefault)) = some [.xfer 0 0x3A [0x05], .delay 20000] := by decide
theorem test_madctl :
    eventsOf (step (atState .addrmode { cfgDefault with ovBgrSwap := true })) =
      some [.xfer 0 0x36 [0x08], .delay 10000] := by decide
theorem test_v4_madctl :
    computeMadctl { cfgDefault with
        madctlFamilyDefault := 0x14, hatRotMask := 0xA0, ovBgrSwap := true, ovAxisExchange := true,
        ovHatRotate := true, ovRotate180 := true } = 0x5C ∧
      computeMadctl { cfgDefault with madctlFamilyDefault := 0x08, ovBgrSwap := true } = 0x00 := by decide
theorem test_invon :
    eventsOf (step (atState .invert { cfgDefault with fGammaEnable := true })) = some [.xfer 0 0x21 []] ∧
      fieldOf (·.inv) (step (atState .invert { cfgDefault with fGammaEnable := true })) = some true := by decide
theorem test_invoff :
    eventsOf (step (atState .invert { cfgDefault with fGammaEnable := true, ovInvert := true })) =
      some [.xfer 0 0x20 []] := by decide
theorem test_noron :
    eventsOf (step (atState .partoff cfgDefault)) = some [.xfer 0 0x13 [], .delay 10000] := by decide
theorem test_vscrsadd :
    eventsOf (step { atState .vscroll { cfg3 240 240 320 with fVscroll := true } with madctl := 0xC0 }) =
      some [.xfer 0 0x37 [0x00, 0x50]] := by decide
theorem test_vscrsadd_left_out :
    eventsOf (step { atState .vscroll { cfg3 240 240 320 with fVscroll := true } with madctl := 0x40 }) =
      some [] ∧
    eventsOf (step { atState .vscroll { cfg3 240 240 240 with fVscroll := true } with madctl := 0xC0 }) =
      some [] := by decide
theorem test_frmctr1 :
    eventsOf (step (atState .frmrate cfgBus16)) =
      some [.xfer 0 0xB1 [0x00, 0x06, 0x00, 0x01, 0x00, 0x01]] := by decide
theorem test_dispon :
    eventsOf (step (atState .dispon cfgDefault)) = some [.xfer 0 0x29 [], .delay 100000] := by decide
theorem test_caset_raset :
    eventsOf (exec (.raset 300 479) { State.resetWith cfgBus16 with cs := 1 }) =
      some [.xfer 1 0x2B [0x00, 0x01, 0x00, 0x2C, 0x00, 0x01, 0x00, 0xDF]] ∧
    eventsOf (exec (.caset 0 127) State.reset) = some [.xfer 0 0x2A [0x00, 0x00, 0x00, 0x7F]] := by decide
theorem test_v1_row_cursor8 :
    eventsOf (step { atState .clrRow (Config.assumed 128 160 160 1 .bmCursor8) with y := 5 }) =
      some [.xfer 0 0x2A [0x00, 0x7F], .xfer 0 0x2B [0x05, 0x9F], .taskAlloc 0 256, .taskTag 0x2C,
        .taskFill0, .taskCommit, .taskExec, .taskRelease] := by decide
theorem test_v1_final :
    eventsOf (step (atState .clrFinal (Config.assumed 240 240 320 1 .bmBus16))) =
      some [.xfer 0 0x2A [0x00, 0x00, 0x00, 0x00, 0x00, 0x00, 0x00, 0xEF],
        .xfer 0 0x2B [0x00, 0x00, 0x00, 0x00, 0x00, 0x01, 0x00, 0x3F]] := by decide
theorem test_v9_ramwr :
    eventsOf (exec .ramwr { State.resetWith { cfgDefault with w := 320, bppBytes := 3 } with cs := 1 }) =
      some [.taskAlloc 1 960, .taskTag 0x2C, .taskFill0, .taskCommit, .taskExec, .taskRelease] := by decide
theorem test_fill_is_zero :
    (emitAll [.taskAlloc 1 2, .taskTag 0x2C, .taskFill0] State.reset).task =
      some { line := 1, size := 2, cmd := some 0x2C, buf := [(0, 0x00), (1, 0x00)] } := by decide
theorem test_v11_reset_pulse :
    eventsOf (step (atState .reset { cfgDefault with resetPin := some 25 })) =
      some [.gpioMode 25, .gpioSet 25, .delay 120000, .gpioClr 25, .delay 120000, .gpioSet 25,
        .delay 120000] := by decide
theorem test_v11_backlight :
    eventsOf (step (atState .bklt { cfgDefault with backlightPin := some 18 })) =
      some [.gpioMode 18, .gpioSet 18] ∧
    fieldOf (·.bl) (step (atState .bklt { cfgDefault with backlightPin := some 18 })) = some .high ∧
    fieldOf (·.bl) (step (atState .bklt cfgDefault)) = some .undriven := by decide
theorem test_slowclk :
    eventsOf (step (atState .slowclk { cfgDefault with secondaryCsHw := true })) =
      some [.clkdiv 34, .barrier] ∧
    fieldOf (·.cs) (step (atState .slowclk { cfgDefault with secondaryCsHw := true })) = some 1 := by decide
theorem test_panel_bracket :
    eventsOf (step { atState .pBegin cfgDefault with cs := 1 }) = some [.beginTx 1] ∧
    eventsOf (step { atState .pEnd cfgDefault with cs := 1 }) = some [.endTx 1] ∧
    eventsOf (step (atState .pEnd { cfgDefault with dmaQueued := true })) = some [] := by decide
theorem test_panel_end_next_line :
    fieldOf (·.cs) (step (atState .pEnd { cfgDefault with n := 2 })) = some 1 ∧
    fieldOf (·.st) (step (atState .pEnd { cfgDefault with n := 2 })) = some FsmState.pBegin.code ∧
    fieldOf (·.st) (step (atState .pEnd cfgDefault)) = some FsmState.restore.code := by decide
theorem test_restore :
    eventsOf (step (atState .restore cfgDefault)) = some [.delay 10000, .clkdiv 6] := by decide
theorem test_v13_display_off :
    eventsOf (step (presented .ready { cfgDefault with backlightPin := some 18 } 2)) = some [.gpioClr 18] ∧
    fieldOf (·.bl) (step (presented .ready { cfgDefault with backlightPin := some 18 } 2)) = some .low := by decide
theorem test_v13_display_on :
    eventsOf (step (presented .idle { cfgDefault with backlightPin := some 18 } 1)) = some [.gpioSet 18] ∧
    eventsOf (step (presented .ready cfgDefault 2)) = some [] := by decide
theorem test_v13_deinit :
    fieldOf (·.qret) (step (presented .ready cfgDefault 3)) = some 1 ∧
    fieldOf (·.qret) (step { presented .idle cfgDefault 3 with qret := 1 }) = some 0 ∧
    fieldOf (·.st) (step (presented .idle cfgDefault 3)) = some FsmState.dStart.code := by decide
theorem test_v13_init :
    fieldOf (·.st) (step (presented .ready cfgDefault 0)) = some FsmState.reset.code := by decide
theorem test_p4_refused :
    step (presented .idle (cfg3 0 2 2) 0) =
      .next { State.resetWith (cfg3 0 2 2) with refusedMark := some .rfGeometry } := by rfl
theorem test_trace_syntax :
    renderEvent cfgDefault (.xfer 0 0x2A [0x00, 0x00, 0x00, 0x9F]) =
      some "XFER cs=0 CASET(0x2A) [00 00 00 9F]".toList := by decide

/-- A panel with nothing written, whose RAM is n columns wide. -/
def observerOf (n : Nat) : Observer :=
  { wRam := n, cols := fun _ => (0, 0), rows := fun _ => (0, 0), task := none, writes := [] }

/-- R60: a payload fills the window in raster order, and the RAM has W_RAM by AH cells only (here 3 by 2). -/
theorem test_observer_writes_ram_cells :
    (observeAll cfgDefault (observerOf 3)
        [.xfer 0 0x2A [0x00, 0x02, 0x00, 0x03], .xfer 0 0x2B [0x00, 0x01, 0x00, 0x01],
          .taskAlloc 0 4, .taskTag 0x2C, .taskFill0, .taskCommit, .taskExec, .taskRelease]).writes =
      [(({ line := 0, x := 2, y := 1 } : PixelCell), true)] := by decide

/-! Witnesses: for each statement with hypotheses, states and operands that meet them, clause by clause. -/

theorem witness_UnusedCodes :
    22 ≤ ({ State.reset with st := 22 } : State).st.toNat ∧
      22 ≤ ({ State.reset with st := 31 } : State).st.toNat ∧
      (∃ t, step (atState .slpout cfgDefault) = .next t) := ⟨by decide, by decide, _, rfl⟩
theorem witness_StepRunsThePresentedOperation :
    isQuiescent (presented .idle cfgDefault 0) = true ∧ (presented .idle cfgDefault 0).hostOps = 0 :: [] ∧
      isQuiescent (presented .ready cfgDefault 3) = true ∧
      isQuiescent State.reset = true ∧ State.reset.hostOps = [] := by decide
theorem witness_StepRunsTheIssuedCommands :
    FsmState.ofCode (atState .clrRow cfgDefault).st = some .clrRow ∧
      commandsOf .clrRow (atState .clrRow cfgDefault) ≠ [] ∧
      commandsOf .vscroll { atState .vscroll { cfg3 2 2 3 with fVscroll := true } with madctl := 0x80 } ≠ [] := by
  decide
theorem witness_SoftwareReset :
    (atState .swreset cfgDefault).st = FsmState.swreset.code ∧ cfgDefault.fNoSwreset = false ∧
      (atState .swreset { cfgDefault with fNoSwreset := true }).cfg.fNoSwreset = true := by decide
theorem witness_CommandsWithADelayOnly :
    (atState .slpout cfgDefault).st = FsmState.slpout.code ∧
      (atState .partoff cfgDefault).st = FsmState.partoff.code ∧
      (atState .dispon cfgDefault).st = FsmState.dispon.code := by decide
theorem witness_GammaStep :
    (atState .gamma cfgDefault).st = FsmState.gamma.code ∧
      ({ cfgDefault with fGammaEnable := true } : Config).fGammaEnable = true ∧
      (cfgDefault.fGammaEnable = false ∧ cfgDefault.fNoGamsetFrmctr = false) ∧
      (({ cfgDefault with fNoGamsetFrmctr := true } : Config).fGammaEnable = false ∧
        ({ cfgDefault with fNoGamsetFrmctr := true } : Config).fNoGamsetFrmctr = true) := by decide
theorem witness_PixelFormat_AddressMode_Inversion :
    (atState .pixfmt cfgDefault).st = FsmState.pixfmt.code ∧
      (atState .addrmode cfgDefault).st = FsmState.addrmode.code ∧
      (atState .invert cfgDefault).st = FsmState.invert.code := by decide
theorem witness_VerticalScroll :
    let s : State := { atState .vscroll { cfg3 2 2 3 with fVscroll := true } with madctl := 0x80 }
    s.st = FsmState.vscroll.code ∧ s.cfg.fVscroll = true ∧ s.madctl &&& s.cfg.madctlMy ≠ 0 ∧
      s.cfg.h < s.cfg.ah ∧
      (cfgDefault.fVscroll = false ∧ (0x7F : Byte) &&& cfgDefault.madctlMy = 0 ∧
        cfgDefault.ah ≤ cfgDefault.h) := by decide
theorem witness_FrameRate :
    (atState .frmrate cfgDefault).st = FsmState.frmrate.code ∧ cfgDefault.fNoGamsetFrmctr = false ∧
      ({ cfgDefault with fNoGamsetFrmctr := true } : Config).fNoGamsetFrmctr = true := by decide
theorem witness_FilledPayloadIsAllZero :
    (∀ c n, Event.barrier ≠ .taskAlloc c n) ∧ Event.barrier ≠ .taskFill0 ∧ Event.barrier ≠ .taskRelease := by
  exact ⟨fun c n h => (by cases h), by decide, by decide⟩
theorem witness_ClearRowStep :
    (atState .clrRow cfgDefault).st = FsmState.clrRow.code ∧
      (atState .clrRow cfgDefault).y.toNat + 1 < cfgDefault.ah ∧
      cfgDefault.ah ≤ ({ atState .clrRow cfgDefault with y := 1 } : State).y.toNat + 1 := by decide
theorem witness_ClearFinal_SlowClock_PanelBegin_PanelEnd_Restore :
    (atState .clrFinal cfgDefault).st = FsmState.clrFinal.code ∧
      (atState .slowclk cfgDefault).st = FsmState.slowclk.code ∧
      (atState .pBegin cfgDefault).st = FsmState.pBegin.code ∧
      (atState .pEnd cfgDefault).st = FsmState.pEnd.code ∧
      (atState .restore cfgDefault).st = FsmState.restore.code := by decide
theorem witness_RowWindowCarriesItsBounds :
    let s : State := { atState .clrRow (Config.assumed 256 256 256 1 .bmCursor8) with y := 255 }
    s.st = FsmState.clrRow.code ∧ wellFormed s.cfg = true ∧ s.y.toNat < s.cfg.ah := by decide
theorem witness_ResetPulse :
    let s : State := atState .reset { cfgDefault with resetPin := some 25, backlightPin := some 18 }
    s.st = FsmState.reset.code ∧ s.cfg.resetPin = some 25 ∧ s.cfg.backlightPin = some 18 ∧
      (atState .reset cfgDefault).cfg.resetPin = none := by decide
theorem witness_BacklightStep :
    let s : State := atState .bklt { cfgDefault with backlightPin := some 18 }
    s.st = FsmState.bklt.code ∧ s.cfg.backlightPin = some 18 ∧
      (atState .bklt cfgDefault).cfg.backlightPin = none := by decide
theorem witness_DeinitPanelLoop :
    (atState .dStart cfgDefault).st = FsmState.dStart.code ∧
      (atState .dNext cfgDefault).st = FsmState.dNext.code ∧
      (atState .dNext cfgDefault).k.toNat < cfgDefault.n ∧
      cfgDefault.n ≤ ({ atState .dNext cfgDefault with k := 1 } : State).k.toNat := by decide
theorem witness_HostDispatch :
    isQuiescent (atState .ready cfgDefault) = true ∧ wellFormed cfgDefault = true ∧
      firstFailedCheck (cfg3 0 2 2) = some .rfGeometry ∧ Instr.opInit.isHostOp = true ∧
      isQuiescent (atState .clrRow cfgDefault) = false := by decide
theorem witness_BacklightOperations :
    let s : State := atState .idle { cfgDefault with backlightPin := some 18 }
    isQuiescent s = true ∧ wellFormed s.cfg = true ∧ s.cfg.backlightPin = some 18 ∧
      cfgDefault.backlightPin = none := by decide
theorem witness_RefusalChangesOnlyTheMark :
    let s : State := presented .idle (cfg3 0 2 2) 0
    isQuiescent s = true ∧ s.hostOps = 0 :: [] ∧ firstFailedCheck s.cfg = some .rfGeometry ∧
      s.refusedMark = none ∧ ({ s with refusedMark := some .rfBpp } : State).refusedMark = some .rfBpp := by decide
theorem witness_RefusedMarkIsSetOnceAndStays :
    (∃ t, step (presented .idle (cfg3 0 2 2) 0) = .next t ∧ t.refusedMark = some .rfGeometry) ∧
      (presented .idle (cfg3 0 2 2) 0).refusedMark = none ∧
      (∃ t, step { atState .slpout cfgDefault with refusedMark := some .rfBpp } = .next t) :=
  ⟨⟨_, rfl, rfl⟩, rfl, _, rfl⟩
theorem witness_ChipSelectAssignment :
    (({ cfgDefault with secondaryCsHw := true } : Config).n = 1 ∧
      ({ cfgDefault with secondaryCsHw := true } : Config).secondaryCsHw = true) ∧
      ({ cfgDefault with n := 2, secondaryCsHw := true } : Config).n ≠ 1 ∧
      cfgDefault.secondaryCsHw = false := by decide
theorem witness_FramingByBusMode :
    cfgDefault.busMode = .bmDefault ∧ cfgBus16.busMode = .bmBus16 ∧ cfgCursor8.busMode = .bmCursor8 ∧
      (255 : Coord).toNat ≤ 255 ∧
      frameCoord cfgBus16 0xFFFF = [0x00, 0xFF, 0x00, 0xFF] := by decide
theorem witness_DecodeInvertsEncode :
    cfgCursor8.opc.toList.Nodup ∧ (Instr.caset 0 255).wf cfgCursor8 = true ∧
      (Instr.caset 0 255).isHostOp = false := by decide
theorem witness_EncodeInvertsDecode :
    decode cfgBus16 (.transfer [0x36, 0x00, 0xC0]) = .ok (.madctl 0xC0) ∧
      decode cfgBus16 (.hostOp 3) = .ok .opDeinit := ⟨rfl, rfl⟩
theorem witness_ReservedOpcodesAreRejected :
    (0x10 : Byte) ∉ cfgDefault.opc.toList ∧ (0x28 : Byte) ∉ cfgDefault.opc.toList := by decide

/-- The block about to clear the last row of its one panel. -/
def lastRow : State := { atState .clrRow cfgDefault with y := 1 }

theorem witness_BlockInv_busy : BlockInv lastRow ∧ ∃ t, step lastRow = .next t := by
  refine ⟨⟨by decide, by decide, by decide, fun _ => by decide, fun _ => by decide, fun S hS => ?_⟩, _, rfl⟩
  have h : S = .clrRow := by
    have : FsmState.ofCode lastRow.st = some .clrRow := by decide
    rw [this] at hS
    exact (Option.some.inj hS).symm
  subst h
  exact ⟨fun _ => ⟨by decide, by decide⟩, fun h => absurd h (by decide)⟩
theorem witness_TheBlockOnlyStopsWaiting :
    BlockInv lastRow ∧ ¬ (isQuiescent lastRow = true ∧ lastRow.hostOps = []) :=
  ⟨witness_BlockInv_busy.1, by decide⟩
theorem witness_CommandsWriteNoBlockState :
    Instr.ramwr.isHostOp = false ∧ (Instr.madctl 0).isHostOp = false := by decide
/-- Every clause's register changes in some step: at the first panel, between panels, and per operation. -/
theorem witness_OnlyTheNamedStatesWriteEachRegister :
    (∃ t, step { atState .slowclk cfgDefault with k := 2, cs := 1 } = .next t ∧ t.k ≠ 2 ∧ t.cs ≠ 1 ∧
      t.clk ≠ .unknown) ∧
    (∃ t, step (atState .pEnd { cfgDefault with n := 2 }) = .next t ∧ t.k ≠ 0 ∧ t.cs ≠ 0) ∧
    (∃ t, step { atState .dNext { cfgDefault with n := 2 } with k := 1 } = .next t ∧ t.cs ≠ 0 ∧ t.ret ≠ 0) ∧
    (∃ t, step (atState .clrRow cfgDefault) = .next t ∧ t.y ≠ 0) ∧
    (∃ t, step { atState .clrRow cfgDefault with taskLive := true } = .next t ∧ t.taskLive ≠ true) ∧
    (∃ t, step (atState .addrmode { cfgDefault with ovBgrSwap := true }) = .next t ∧ t.madctl ≠ 0) ∧
    (∃ t, step (atState .invert { cfgDefault with ovInvert := true }) = .next t ∧ t.inv ≠ false) ∧
    (∃ t, step (presented .ready cfgDefault 3) = .next t ∧ t.qret ≠ 0 ∧ t.hostOps ≠ [3]) ∧
    (∃ t, step (presented .idle (cfg3 0 2 2) 0) = .next t ∧ t.refusedMark ≠ none) ∧
    (∃ t, step (atState .pBegin cfgDefault) = .next t ∧ t.open0 ≠ false) ∧
    (∃ t, step { atState .pEnd cfgDefault with cs := 1, open1 := true } = .next t ∧ t.open1 ≠ true) :=
  ⟨⟨_, rfl, by decide, by decide, by decide⟩, ⟨_, rfl, by decide, by decide⟩,
    ⟨_, rfl, by decide, by decide⟩, ⟨_, rfl, by decide⟩, ⟨_, rfl, by decide⟩, ⟨_, rfl, by decide⟩,
    ⟨_, rfl, by decide⟩, ⟨_, rfl, by decide, by decide⟩, ⟨_, rfl, by decide⟩, ⟨_, rfl, by decide⟩,
    ⟨_, rfl, by decide⟩⟩
/-- The backlight clause of the same statement, in the bring-up state and for both operations. -/
theorem witness_OnlyTheNamedStatesWriteTheBacklight :
    let cfg : Config := { cfgDefault with backlightPin := some 18 }
    wellFormed cfg = true ∧
    (∃ t, step (atState .bklt cfg) = .next t ∧ t.bl ≠ .undriven) ∧
    (∃ t, step (presented .idle cfg 1) = .next t ∧ t.bl ≠ .undriven) ∧
    (∃ t, step { presented .ready cfg 2 with bl := .high } = .next t ∧ t.bl ≠ .high) :=
  ⟨by decide, ⟨_, rfl, by decide⟩, ⟨_, rfl, by decide⟩, ⟨_, rfl, by decide⟩⟩
theorem witness_BusyBlockIgnoresTheInput : isQuiescent (atState .restore cfgDefault) = false := by decide
theorem witness_PixelTasksNeverOverlap :
    (∃ t, step lastRow = .next t) ∧ lastRow.taskLive = false ∧ lastRow.task = none ∧
      phaseAfter .free lastRow.trace = some .free := ⟨⟨_, rfl⟩, rfl, rfl, rfl⟩
theorem witness_ShadowsFollowTheTrace :
    ShadowInv State.reset ∧ ∃ t, step (presented .idle cfgDefault 1) = .next t :=
  ⟨⟨rfl, rfl, rfl, rfl⟩, _, rfl⟩
theorem witness_ShadowInv_driven :
    ShadowInv { atState .restore cfgDefault with open0 := true, clk := .div 34, trace := [.clkdiv 34, .beginTx 0] } ∧
      ∃ t, step { atState .restore cfgDefault with
        open0 := true, clk := .div 34, trace := [.clkdiv 34, .beginTx 0] } = .next t :=
  ⟨⟨rfl, rfl, rfl, rfl⟩, _, rfl⟩
theorem witness_UnwrittenRegistersAreNeverObserved :
    liveView State.reset = liveView { State.reset with k := 3, cs := 1, y := 7, madctl := 9, qret := 1 } ∧
      State.reset ≠ { State.reset with k := 3, cs := 1, y := 7, madctl := 9, qret := 1 } := by decide
theorem witness_InitRunsToReady :
    isQuiescent (presented .ready cfgDefault 0) = true ∧ wellFormed (presented .ready cfgDefault 0).cfg = true ∧
      (presented .ready cfgDefault 0).hostOps = 0 :: [] := by decide
theorem witness_DeinitClearsEveryPanelAndReturns :
    isQuiescent (presented .idle cfgDefault 3) = true ∧ wellFormed (presented .idle cfgDefault 3).cfg = true ∧
      (presented .idle cfgDefault 3).hostOps = 3 :: [] := by decide
theorem witness_StepsKeepTheConfigurationAndTheOutput : ∃ t, step lastRow = .next t := ⟨_, rfl⟩
theorem witness_InitRepeatsThePanelBlock : cfgDefault.opc.toList.Nodup := by decide
theorem witness_InitIsOrderedExceptForTheRestore :
    let later : List Event := [.gpioClr 18]
    later.head? ≠ some .barrier ∧ 0 < 1 ∧ 1 < (initTrace (cfg3 1 1 1) ++ later).length := by decide
theorem witness_ClearBlackensTheWholePanel :
    wellFormed cfgDefault = true ∧ cfgDefault.w ≤ (observerOf 2).wRam ∧ cfgDefault.w ≤ (observerOf 3).wRam ∧
      1 < cfgDefault.w ∧ 1 < cfgDefault.ah ∧
      (({ line := 1, x := 0, y := 0 } : PixelCell).line ≠ 0 ∧ cfgDefault.w ≤ 2 ∧ cfgDefault.ah ≤ 2) := by decide

end Sys2Proof.Tests
end

section
/-! A state that issues commands runs them and then writes its registers. -/

namespace Sys2Proof.Machine

/-- A state that issues commands does nothing but perform them and make its register writes. -/
theorem stepState_eq_perform {S : FsmState} {s : State} (h : commandsOf S s ≠ []) :
    stepState S s = perform S (stateWrites S s) s := by
  cases S with
  | idle | reset | slowclk | pBegin | bklt | pEnd | restore | ready | dStart | dNext => exact absurd rfl h
  | _ => rfl

/-- The frame of the writes: `k`, `cs` and `ret` are written only by states that issue no command. -/
theorem stateWrites_frame_of_commands {S : FsmState} {s : State} (h : commandsOf S s ≠ []) (t : State) :
    stateWrites S s t = { t with
      st := (stateWrites S s t).st, y := (stateWrites S s t).y
      madctl := (stateWrites S s t).madctl, inv := (stateWrites S s t).inv } := by
  cases S with
  | slowclk | bklt | pEnd | dStart | dNext => exact absurd rfl h
  | clrRow =>
    simp only [stateWrites]
    split <;> rfl
  | _ => rfl

/-- Settles O4: the commands only emit their events, and the writes after them keep to the frame. -/
theorem stepRunsTheIssuedCommands : Obligations.StepRunsTheIssuedCommands := by
  intro s S hS hne
  refine ⟨_, _, execAll_commands (commandsOf_isHostOp S s) s, ?_, stateWrites_frame_of_commands hne _⟩
  rw [step_of_ofCode hS, stepState_eq_perform hne, perform_eq]

end Sys2Proof.Machine
end

section
/-! The block's derived values (R36 to R38). -/

namespace Sys2Proof

open Machine

/-- Settles O31, by the parity of the panel index. -/
theorem chipSelectAssignment : Obligations.ChipSelectAssignment := by
  refine ⟨fun cfg k hn hcs => ?_, fun cfg k h => ?_⟩
  · have hinit : csInit cfg = 1 := if_pos ⟨hn, hcs⟩
    rcases Nat.mod_two_eq_zero_or_one k with hk | hk <;> simp [csOf, hinit, hk]
  · have hinit : csInit cfg = 0 := if_neg fun ⟨hn, hcs⟩ => by simp [hn, hcs] at h
    rcases Nat.mod_two_eq_zero_or_one k with hk | hk <;> simp [csOf, hinit, hk]

/-- An override that is set toggles its mask, one that is not set toggles nothing. -/
theorem toggleIf_eq_xor (b : Bool) (mask m : Byte) : toggleIf b mask m = m ^^^ (if b then mask else 0) := by
  cases b <;> simp [toggleIf]

/-- Flipping an override toggles its mask once more. -/
theorem toggleIf_not (b : Bool) (mask m : Byte) : toggleIf (!b) mask m = toggleIf b mask m ^^^ mask := by
  cases b <;> simp [toggleIf]

/-- A toggle commutes with an earlier one. -/
theorem toggleIf_xor (b : Bool) (mask m x : Byte) : toggleIf b mask (m ^^^ x) = toggleIf b mask m ^^^ x := by
  cases b
  · rfl
  · simp [toggleIf, BitVec.xor_assoc, BitVec.xor_comm x]

/-- Settles O32: each override is a toggle, and toggles commute. -/
theorem madctlOverridesAreToggles : Obligations.MadctlOverridesAreToggles := by
  refine ⟨fun cfg => ?_, fun cfg => ?_, fun cfg => ?_, fun cfg => ?_, fun cfg => ?_⟩
  · simp only [computeMadctl, toggleIf_eq_xor]
  all_goals simp only [computeMadctl, toggleIf_not, toggleIf_xor]

/-- Settles O33, by the three flags. -/
theorem inversionFlag : Obligations.InversionFlag := by
  intro cfg
  unfold invEffective invDefault
  cases cfg.fGammaEnable <;> cases cfg.invFamilyDefault <;> cases cfg.ovInvert <;> decide

end Sys2Proof
end

section
/-! What one step emits, said once: the trace, the shadow registers and the task follow the events (R30, R33 to
R35, R51, R103). -/

namespace Sys2Proof.Machine

/-! The shadows after a list of events are what the list says of them. -/

theorem line_eq_one_iff (c : Line) : c = 1#1 ↔ c ≠ 0#1 := by revert c; decide

@[simp] theorem emitAll_clk (es : List Event) (s : State) : (emitAll es s).clk = lastClkdiv s.clk es := by
  induction es generalizing s with
  | nil => rfl
  | cons e es ih =>
    rw [emitAll, ih]
    cases e <;> simp [emit, shadow, lastClkdiv]
@[simp] theorem emitAll_open0 (es : List Event) (s : State) :
    (emitAll es s).open0 = bracketOpen 0 s.open0 es := by
  induction es generalizing s with
  | nil => rfl
  | cons e es ih =>
    rw [emitAll, ih]
    cases e <;> simp [emit, shadow, bracketOpen]
@[simp] theorem emitAll_open1 (es : List Event) (s : State) :
    (emitAll es s).open1 = bracketOpen 1 s.open1 es := by
  induction es generalizing s with
  | nil => rfl
  | cons e es ih =>
    rw [emitAll, ih]
    cases e <;> simp [emit, shadow, bracketOpen, line_eq_one_iff]
@[simp] theorem emitAll_bl (es : List Event) (s : State) :
    (emitAll es s).bl = lastLevel s.cfg.backlightPin s.bl es := by
  induction es generalizing s with
  | nil => rfl
  | cons e es ih =>
    rw [emitAll, ih]
    cases e <;> simp [emit, shadow, lastLevel]

/-- State t is s after the events, as far as the output, the shadow registers and the pixel task go. -/
structure Emitted (evs : List Event) (s t : State) : Prop where
  cfg : t.cfg = s.cfg
  trace : t.trace = s.trace ++ evs
  clk : t.clk = lastClkdiv s.clk evs
  open0 : t.open0 = bracketOpen 0 s.open0 evs
  open1 : t.open1 = bracketOpen 1 s.open1 evs
  bl : t.bl = lastLevel s.cfg.backlightPin s.bl evs
  lifecycle : phaseAfter .free evs = some .free
  noTask : s.taskLive = false ∧ s.task = none → t.taskLive = false ∧ t.task = none

/-- Every step emits some events, and its outputs follow them. -/
theorem step_emitted {s t : State} (h : step s = .next t) : ∃ evs, Emitted evs s t := by
  obtain ⟨S, -, ⟨-, rfl⟩ | ⟨-, code, rest, -, ⟨r, -, rfl⟩ | ⟨-, rfl⟩⟩⟩ := step_cases h
  case inl =>
    have hlife := stateEvents_phase S s
    exact ⟨stateEvents S s, by simp, by simp, by simp, by simp, by simp, by simp, hlife,
      fun hs => by simpa using emitAll_noTask hs hlife⟩
  case inr.inl => exact ⟨[], rfl, by simp, rfl, rfl, rfl, rfl, rfl, id⟩
  case inr.inr =>
    have hlife := opEvents_phase code s.cfg
    exact ⟨opEvents code s.cfg, by simp, by simp, by simp, by simp, by simp, by simp, hlife,
      fun hs => by simpa using emitAll_noTask (s := { s with hostOps := rest }) hs hlife⟩

/-- Settles O48: the shadows follow the events a step emits, and the trace grows by those events. -/
theorem shadowsFollowTheTrace : Obligations.ShadowsFollowTheTrace := by
  intro s t hs h
  obtain ⟨evs, he⟩ := step_emitted h
  constructor
  · rw [he.clk, he.trace, lastClkdiv_append, hs.clk]
  · rw [he.open0, he.trace, bracketOpen_append, hs.open0]
  · rw [he.open1, he.trace, bracketOpen_append, hs.open1]
  · rw [he.bl, he.trace, he.cfg, lastLevel_append, hs.bl]

/-- Settles O41: a step emits, and does no more to the trace or the configuration. -/
theorem stepsKeepTheConfigurationAndTheOutput : Obligations.StepsKeepTheConfigurationAndTheOutput := by
  intro s t h
  obtain ⟨evs, he⟩ := step_emitted h
  exact ⟨he.cfg, evs, he.trace⟩

/-- Settles O45: the events of a step are complete lifecycles, so they extend a trace of complete ones. -/
theorem pixelTasksNeverOverlap : Obligations.PixelTasksNeverOverlap := by
  intro s t h hlive htask hphase
  obtain ⟨evs, he⟩ := step_emitted h
  obtain ⟨hlive', htask'⟩ := he.noTask ⟨hlive, htask⟩
  refine ⟨hlive', htask', ?_⟩
  rw [he.trace, phaseAfter_append, hphase, Option.bind_some, he.lifecycle]

end Sys2Proof.Machine
end

section
/-! Where the FSM goes (R22, R23): the state after each step. -/

namespace Sys2Proof.Machine

/-- The state a busy state moves to. -/
def successor (S : FsmState) (s : State) : FsmState :=
  match S with
  | .reset => .slowclk
  | .slowclk => .pBegin
  | .pBegin => .swreset
  | .swreset => .slpout
  | .slpout => .gamma
  | .gamma => .pixfmt
  | .pixfmt => .addrmode
  | .addrmode => .invert
  | .invert => .partoff
  | .partoff => .vscroll
  | .vscroll => .frmrate
  | .frmrate => .dispon
  | .dispon => .bklt
  | .bklt => .clrRow
  | .clrRow => if s.y.toNat + 1 < s.cfg.ah then .clrRow else .clrFinal
  | .clrFinal => if s.ret = 0 then .pEnd else .dNext
  | .pEnd => if s.k.toNat + 1 < s.cfg.n then .pBegin else .restore
  | .restore => .ready
  | .dStart => .dNext
  | .dNext => if s.k.toNat < s.cfg.n then .clrRow else if s.qret = 1 then .ready else .idle
  | .idle => .idle
  | .ready => .ready

theorem stateWrites_st {S : FsmState} {t : State} (ht : t.st = S.code) (s : State) :
    (stateWrites S s t).st = (successor S s).code := by
  cases S with
  | idle | ready => exact ht
  | clrRow =>
    simp only [stateWrites, successor]
    split
    · exact ht
    · rfl
  | pEnd | dNext =>
    simp only [stateWrites, successor]
    split <;> rfl
  | _ => rfl

/-- The state an accepted operation moves to. -/
def opSuccessor (code : BitVec 2) (S : FsmState) : FsmState :=
  if code = 0 then .reset else if code = 3 then .dStart else S

theorem opWrites_st {S : FsmState} {t : State} (ht : t.st = S.code) (code : BitVec 2) :
    (opWrites code t).st = (opSuccessor code S).code := by
  unfold opWrites opSuccessor
  split
  · rfl
  · split
    · rfl
    · exact ht

/-- A step starts from a state of R22 and ends in one. -/
theorem step_st {s t : State} (h : step s = .next t) : ∃ S S' : FsmState, s.st = S.code ∧ t.st = S'.code := by
  obtain ⟨S, hS, ⟨-, rfl⟩ | ⟨-, code, rest, -, ⟨r, -, rfl⟩ | ⟨-, rfl⟩⟩⟩ := step_cases h
  all_goals have hst := code_of_ofCode hS
  case inl => exact ⟨S, _, hst, stateWrites_st (by simpa using hst) s⟩
  case inr.inl => exact ⟨S, S, hst, hst⟩
  case inr.inr => exact ⟨S, _, hst, opWrites_st (by simpa using hst) code⟩

/-- Settles O2: a code above 21 names no state, and a step goes from a named state to a named state. -/
theorem unusedCodesAreStuckAndNeverWritten : Obligations.UnusedCodesAreStuckAndNeverWritten := by
  refine ⟨fun s hs => ?_, fun s t h => ?_, by decide, fun S c => ⟨code_of_ofCode, ?_⟩⟩
  · have hnone := (ofCode_eq_none_iff s.st).mpr hs
    exact ⟨hnone, by simp [step, stepBlock, hnone]⟩
  · obtain ⟨S, S', hS, hS'⟩ := step_st h
    exact ⟨hS ▸ code_toNat_le S, hS' ▸ code_toNat_le S'⟩
  · rintro rfl
    exact ofCode_code S

/-- Settles O49: a busy state always has a next state, and a quiescent one has one for every operation presented. -/
theorem theBlockOnlyStopsWaiting : Obligations.TheBlockOnlyStopsWaiting := by
  intro s hinv hwait
  cases hS : FsmState.ofCode s.st with
  | none =>
    have := (ofCode_eq_none_iff s.st).mp hS
    have := hinv.legal
    omega
  | some S =>
    cases hq : S.quiescent with
    | false => exact ⟨_, step_busy hS hq⟩
    | true =>
      have hquiet : isQuiescent s = true := (isQuiescent_of_ofCode hS).trans hq
      cases hops : s.hostOps with
      | nil => exact absurd ⟨hquiet, hops⟩ hwait
      | cons code rest =>
        simp only [step_quiescent hS hq, stepQuiescent, hops, exec_decodeHostOp]
        cases hr : firstFailedCheck s.cfg with
        | some r => exact ⟨_, dispatch_refused hquiet hr⟩
        | none => exact ⟨_, dispatch_accepted hquiet hr⟩

end Sys2Proof.Machine
end

section
/-! The invariant of the block (R23, R25, R27, R33, R165): every step keeps it, and reset meets it (R41). -/

namespace Sys2Proof.Machine

/-! The counters do not wrap where the FSM counts. -/

theorem succ_toNat_of_lt_ah {cfg : Config} (hwf : wellFormed cfg = true) {y : Coord} (hy : y.toNat + 1 < cfg.ah) :
    (y + 1).toNat = y.toNat + 1 := by
  obtain ⟨-, -, -, -, hah⟩ := geometry_of_wellFormed hwf
  rw [BitVec.toNat_add_of_lt]
  · rfl
  · change _ + 1 < _
    omega

theorem succ_toNat_of_lt_n {cfg : Config} (hwf : wellFormed cfg = true) {k : BitVec 2} (hk : k.toNat < cfg.n) :
    (k + 1).toNat = k.toNat + 1 := by
  have hn := panelCount_of_wellFormed hwf
  rw [BitVec.toNat_add_of_lt]
  · rfl
  · change _ + 1 < _
    omega

/-- The row counter stays below AH. -/
theorem stateWrites_rowIndex {s : State} (hwf : wellFormed s.cfg = true) (hy : s.y.toNat < s.cfg.ah)
    (S : FsmState) {t : State} (ht : t.y = s.y) : (stateWrites S s t).y.toNat < s.cfg.ah := by
  obtain ⟨-, -, hh, hah, -⟩ := geometry_of_wellFormed hwf
  have hpos : 0 < s.cfg.ah := by omega
  have hkept : t.y.toNat < s.cfg.ah := ht ▸ hy
  cases S with
  | bklt => exact hpos
  | clrRow =>
    simp only [stateWrites]
    split
    case isTrue hlt => exact (succ_toNat_of_lt_ah hwf hlt).trans_lt hlt
    case isFalse => exact hkept
  | dNext =>
    simp only [stateWrites]
    split
    · exact hpos
    · exact hkept
  | pEnd =>
    simp only [stateWrites]
    split <;> exact hkept
  | _ => exact hkept

/-- The panel index stays at most N: `P_END` counts the panel it served, `D_NEXT` one that is left. -/
theorem stateWrites_panelIndex {S : FsmState} {s : State} (hwf : wellFormed s.cfg = true)
    (hk : s.k.toNat ≤ s.cfg.n) (hphase : PhaseInv S s) {t : State} (ht : t.k = s.k) :
    (stateWrites S s t).k.toNat ≤ s.cfg.n := by
  have hkept : t.k.toNat ≤ s.cfg.n := ht ▸ hk
  cases S with
  | slowclk | dStart => exact Nat.zero_le _
  | pEnd =>
    have hsucc := succ_toNat_of_lt_n hwf hphase.1
    have hlt : s.k.toNat < s.cfg.n := hphase.1
    simp only [stateWrites]
    split <;> simp only [goto_k, hsucc] <;> exact hlt
  | dNext =>
    simp only [stateWrites]
    split
    case isTrue hlt => exact (succ_toNat_of_lt_n hwf hlt).trans_le hlt
    case isFalse => exact hkept
  | clrRow =>
    simp only [stateWrites]
    split <;> exact hkept
  | _ => exact hkept

/-- The registers that `PhaseInv` speaks of. -/
def SamePhaseRegisters (s t : State) : Prop :=
  t.cfg = s.cfg ∧ t.k = s.k ∧ t.cs = s.cs ∧ t.madctl = s.madctl ∧ t.ret = s.ret

theorem emitAll_samePhaseRegisters (evs : List Event) (s : State) : SamePhaseRegisters s (emitAll evs s) := by
  simp [SamePhaseRegisters]

theorem panelServed_congr {s t : State} (hcfg : t.cfg = s.cfg) (hk : t.k = s.k) (hcs : t.cs = s.cs)
    (h : PanelServed s) : PanelServed t := by
  simpa only [PanelServed, hcfg, hk, hcs] using h

/-- The writes of a busy state establish what holds in the state it moves to. -/
theorem stateWrites_phase {S : FsmState} {s : State} (hwf : wellFormed s.cfg = true) (hphase : PhaseInv S s)
    {t : State} (ht : SamePhaseRegisters s t) : PhaseInv (successor S s) (stateWrites S s t) := by
  obtain ⟨hcfg, hk, hcs, hmad, hret⟩ := ht
  cases S with
  | idle | reset | ready | restore | dStart => trivial
  | slowclk =>
    have hn := panelCount_of_wellFormed hwf
    exact ⟨show 0 < t.cfg.n by rw [hcfg]; omega, by simp [stateWrites, hcfg]⟩
  | pBegin | swreset | slpout | gamma | pixfmt | frmrate | dispon => exact panelServed_congr hcfg hk hcs hphase
  | addrmode => exact ⟨panelServed_congr hcfg hk hcs hphase, by simp [stateWrites, hcfg]⟩
  | invert | partoff =>
    obtain ⟨hserved, hm⟩ := hphase
    exact ⟨panelServed_congr hcfg hk hcs hserved, by simp [stateWrites, hcfg, hmad, hm]⟩
  | vscroll => exact panelServed_congr hcfg hk hcs hphase.1
  | bklt => exact ⟨fun _ => panelServed_congr hcfg hk hcs hphase, fun h => absurd h (by simp [stateWrites])⟩
  | clrRow =>
    have hcleared : PanelCleared t := by
      simpa only [PanelCleared, PanelServed, PhaseInv, hcfg, hk, hcs, hret] using hphase
    simp only [stateWrites, successor]
    split <;> exact hcleared
  | clrFinal =>
    simp only [stateWrites, successor]
    split
    case isTrue hzero => exact panelServed_congr hcfg hk hcs (hphase.1 hzero)
    case isFalse => trivial
  | pEnd =>
    simp only [stateWrites, successor]
    split
    case isTrue hlt =>
      have hsucc := succ_toNat_of_lt_n hwf hphase.1
      refine ⟨?_, ?_⟩ <;> simp only [goto_k, goto_cs, goto_cfg, hcfg, hsucc]
      exact hlt
    case isFalse => trivial
  | dNext =>
    simp only [stateWrites, successor]
    split
    case isTrue hlt =>
      have hsucc := succ_toNat_of_lt_n hwf hlt
      refine ⟨fun h => absurd h (by simp), fun _ => ?_⟩
      simp only [goto_k, goto_cs, goto_cfg, hcfg, hsucc]
      exact ⟨by omega, hlt, rfl⟩
    case isFalse => split <;> trivial

/-- The invariant claims nothing of the registers in a quiescent state. -/
theorem phaseInv_of_quiescent {S : FsmState} (hq : S.quiescent = true) (s : State) : PhaseInv S s := by
  cases S with
  | idle | ready => trivial
  | _ => cases hq

theorem opSuccessor_phase {S : FsmState} (hq : S.quiescent = true) (code : BitVec 2) (s : State) :
    PhaseInv (opSuccessor code S) s := by
  unfold opSuccessor
  split
  · trivial
  · split
    · trivial
    · exact phaseInv_of_quiescent hq s

/-- The phase clause of the invariant, in a state that is named. -/
theorem phase_of_code {s : State} {S : FsmState} (hst : s.st = S.code) (h : PhaseInv S s) :
    ∀ S', FsmState.ofCode s.st = some S' → PhaseInv S' s := by
  intro S' hS'
  rwa [code_injective ((code_of_ofCode hS').symm.trans hst)]

/-- A busy state's step keeps the invariant. -/
theorem busy_keeps_blockInv {s t : State} {S : FsmState} (hinv : BlockInv s) (h : step s = .next t)
    (hS : FsmState.ofCode s.st = some S) (hq : S.quiescent = false) : BlockInv t := by
  obtain ⟨evs, he⟩ := step_emitted h
  have hwf : wellFormed s.cfg = true := hinv.busy ((isQuiescent_of_ofCode hS).trans hq)
  rw [step_busy hS hq] at h
  cases h
  have hst := stateWrites_st (t := emitAll (stateEvents S s) s) (by simpa using code_of_ofCode hS) s
  have hphase := hinv.phase S hS
  exact {
    noTask := he.noTask hinv.noTask
    legal := hst ▸ code_toNat_le _
    panelIndex := by
      simpa using stateWrites_panelIndex hwf hinv.panelIndex hphase (emitAll_k (stateEvents S s) s)
    rowIndex := fun _ => by
      simpa using stateWrites_rowIndex hwf (hinv.rowIndex hwf) S (emitAll_y (stateEvents S s) s)
    busy := fun _ => by simpa using hwf
    phase := phase_of_code hst (stateWrites_phase hwf hphase (emitAll_samePhaseRegisters _ s)) }

/-- Settles O46: a busy state's writes keep each clause; an operation writes only `st` and `qret`, and is accepted
only under a well-formed configuration. -/
theorem everyStepKeepsTheInvariant : Obligations.EveryStepKeepsTheInvariant := by
  intro s t hinv h
  obtain ⟨evs, he⟩ := step_emitted h
  obtain ⟨S, hS, ⟨hq, -⟩ | ⟨hq, code, rest, -, ⟨r, -, rfl⟩ | ⟨hr, rfl⟩⟩⟩ := step_cases h
  all_goals have hcode := code_of_ofCode hS
  case inl => exact busy_keeps_blockInv hinv h hS hq
  case inr.inl =>
    exact {
      noTask := hinv.noTask
      legal := hinv.legal
      panelIndex := hinv.panelIndex
      rowIndex := hinv.rowIndex
      busy := hinv.busy
      phase := phase_of_code hcode (phaseInv_of_quiescent hq _) }
  case inr.inr =>
    have hst := opWrites_st (S := S) (t := emitAll (opEvents code s.cfg) { s with hostOps := rest })
      (by simpa using hcode) code
    exact {
      noTask := he.noTask hinv.noTask
      legal := hst ▸ code_toNat_le _
      panelIndex := by simpa using hinv.panelIndex
      rowIndex := by simpa using hinv.rowIndex
      busy := fun _ => by simpa using (firstFailedCheck_eq_none_iff s.cfg).mp hr
      phase := phase_of_code hst (opSuccessor_phase hq code _) }

/-- Settles O1: the reset values are those the definition gives. -/
theorem resetLeavesTheStatedValues : Obligations.ResetLeavesTheStatedValues := fun cfg =>
  ⟨State.resetWith cfg, rfl, rfl, rfl, rfl, rfl, rfl, rfl, rfl, rfl, rfl, rfl⟩

/-- Settles O47: the block waits in IDLE with its counters at 0 and an empty trace. -/
theorem resetMeetsTheInvariants : Obligations.ResetMeetsTheInvariants := by
  intro cfg
  refine ⟨{ noTask := ⟨rfl, rfl⟩, legal := Nat.zero_le _, panelIndex := Nat.zero_le _, rowIndex := fun hwf => ?_,
            busy := fun h => ?_, phase := phase_of_code (S := .idle) rfl trivial }, rfl, rfl, rfl, rfl⟩
  · obtain ⟨-, -, hh, hah, -⟩ := geometry_of_wellFormed hwf
    exact Nat.lt_of_lt_of_le hh hah
  · cases (isQuiescent_iff.mpr (.inl rfl) : isQuiescent (State.resetWith cfg) = true).symm.trans h

end Sys2Proof.Machine
end

section
/-! Unwritten registers (R24, R41): a step from the live view of a state is a step from the state. -/

namespace Sys2Proof.Machine

theorem liveView_of_code {s : State} {S : FsmState} (h : s.st = S.code) :
    liveView s = { s with
      k := if liveK S then s.k else 0
      cs := if liveCs S then s.cs else 0
      y := if liveY S then s.y else 0
      madctl := if liveMadctl S then s.madctl else 0
      inv := false
      ret := if liveRet S then s.ret else 0
      qret := if liveQret s.ret S then s.qret else 0 } := by
  simp [liveView, h]

theorem liveView_of_no_state {s : State} (h : FsmState.ofCode s.st = none) : liveView s = s := by
  simp [liveView, h]

@[simp] theorem liveView_st (s : State) : (liveView s).st = s.st := by
  unfold liveView; split <;> rfl
@[simp] theorem liveView_cfg (s : State) : (liveView s).cfg = s.cfg := by
  unfold liveView; split <;> rfl
@[simp] theorem liveView_hostOps (s : State) : (liveView s).hostOps = s.hostOps := by
  unfold liveView; split <;> rfl

theorem liveView_setHostOps (ops : List (BitVec 2)) (s : State) :
    { liveView s with hostOps := ops } = liveView { s with hostOps := ops } := by
  cases hS : FsmState.ofCode s.st with
  | none => rw [liveView_of_no_state hS, liveView_of_no_state (s := { s with hostOps := ops }) hS]
  | some S =>
    have hst := code_of_ofCode hS
    rw [liveView_of_code hst, liveView_of_code (s := { s with hostOps := ops }) hst]

theorem liveView_goto (S : FsmState) (s : State) :
    liveView (goto S s) = { s with
      st := S.code
      k := if liveK S then s.k else 0
      cs := if liveCs S then s.cs else 0
      y := if liveY S then s.y else 0
      madctl := if liveMadctl S then s.madctl else 0
      inv := false
      ret := if liveRet S then s.ret else 0
      qret := if liveQret s.ret S then s.qret else 0 } :=
  liveView_of_code rfl

/-- An event reads and writes no register that may be dead. -/
theorem emit_liveView (e : Event) (s : State) : emit e (liveView s) = liveView (emit e s) := by
  cases hS : FsmState.ofCode s.st with
  | none => rw [liveView_of_no_state hS, liveView_of_no_state (by simpa using hS)]
  | some S =>
    have hst := code_of_ofCode hS
    rw [liveView_of_code hst, liveView_of_code (S := S) (by simpa using hst)]
    cases e with
    | gpioSet p | gpioClr p =>
      simp only [emit, shadow, setLevel]
      split <;> rfl
    | beginTx c | endTx c =>
      simp only [emit, shadow, setOpen]
      split <;> rfl
    | _ => rfl

theorem emitAll_liveView (es : List Event) (s : State) : emitAll es (liveView s) = liveView (emitAll es s) := by
  induction es generalizing s with
  | nil => rfl
  | cons e es ih => rw [emitAll, emit_liveView, ih, emitAll]

/-- The events of a busy state are chosen by live registers. -/
theorem stateEvents_liveView {S : FsmState} {s : State} (hs : s.st = S.code) :
    stateEvents S (liveView s) = stateEvents S s := by
  rw [liveView_of_code hs]
  cases S <;> rfl

/-- Nor do the writes of a busy state read a dead register, and a register that is live after them was live before or
is written by them. -/
theorem stateWrites_liveView {S : FsmState} (hq : S.quiescent = false) {s u : State} (hs : s.st = S.code)
    (hu : u.st = S.code) (hret : u.ret = s.ret) :
    liveView (stateWrites S (liveView s) (liveView u)) = liveView (stateWrites S s u) := by
  rw [liveView_of_code hs, liveView_of_code hu]
  cases S with
  | clrRow =>
    simp only [stateWrites, liveY, if_true]
    split
    · simp +contextual [liveView_of_code (S := .clrRow), hu, liveK, liveCs, liveY, liveMadctl, liveRet, liveQret]
    · simp +contextual [liveView_goto, liveK, liveCs, liveY, liveMadctl, liveRet, liveQret]
  | clrFinal =>
    simp only [stateWrites, liveRet, if_true]
    split
    · rfl
    case isFalse hne =>
      have hone : u.ret = 1 := hret.trans ((BitVec.eq_zero_or_eq_one s.ret).resolve_left hne)
      simp [liveView_goto, liveK, liveCs, liveY, liveMadctl, liveRet, liveQret, hone]
  | pEnd =>
    simp only [stateWrites, liveK, if_true]
    split <;> rfl
  | dNext =>
    simp only [stateWrites, liveK, liveQret, if_true]
    split
    · rfl
    · split <;> rfl
  | idle | ready => cases hq
  | _ => rfl

/-! A quiescent state's step. -/

/-- In a quiescent state every register that R41 leaves unwritten is dead. -/
theorem liveView_of_quiescent {s : State} (hq : isQuiescent s = true) :
    liveView s = { s with k := 0, cs := 0, y := 0, madctl := 0, inv := false, ret := 0, qret := 0 } := by
  rcases isQuiescent_iff.mp hq with hst | hst <;> rw [liveView_of_code hst] <;> rfl

theorem isQuiescent_congr {s t : State} (h : t.st = s.st) : isQuiescent t = isQuiescent s := by
  simp only [isQuiescent, h]

theorem liveView_idem_of_quiescent {s : State} (hq : isQuiescent s = true) : liveView (liveView s) = liveView s := by
  rw [liveView_of_quiescent ((isQuiescent_congr (liveView_st s)).trans hq), liveView_of_quiescent hq]

/-- A refusal sets the mark alone. -/
theorem raiseRefuse_liveView (r : RefuseReason) (s : State) :
    raiseRefuse r (liveView s) = liveView (raiseRefuse r s) := by
  cases hS : FsmState.ofCode s.st with
  | none => rw [liveView_of_no_state hS, liveView_of_no_state (s := raiseRefuse r s) hS]
  | some S =>
    have hst := code_of_ofCode hS
    rw [liveView_of_code hst, liveView_of_code (s := raiseRefuse r s) hst]
    rfl

/-- An operation reads and writes, of those registers, at most `qret`, which it has written before `D_NEXT` reads it. -/
theorem opWrites_liveView {s : State} (hq : isQuiescent s = true) (code : BitVec 2) :
    liveView (opWrites code (liveView s)) = liveView (opWrites code s) := by
  rcases code_cases code with rfl | rfl | rfl | rfl
  · rw [liveView_of_quiescent hq]
    rfl
  · exact liveView_idem_of_quiescent hq
  · exact liveView_idem_of_quiescent hq
  · rw [liveView_of_quiescent hq]
    rfl

theorem dispatch_liveView {s : State} (hq : isQuiescent s = true) (code : BitVec 2) :
    liveOutcome (dispatch (opBody code) (liveView s)) = liveOutcome (dispatch (opBody code) s) := by
  have hq' := (isQuiescent_congr (liveView_st s)).trans hq
  cases hr : firstFailedCheck s.cfg with
  | some r =>
    rw [dispatch_refused hq hr, dispatch_refused hq' (by simpa using hr)]
    rw [raiseRefuse_liveView]
    exact congrArg Host.Outcome.next (liveView_idem_of_quiescent hq)
  | none =>
    have hqe := (isQuiescent_congr (emitAll_st (opEvents code s.cfg) s)).trans hq
    rw [dispatch_accepted hq hr, dispatch_accepted hq' (by simpa using hr), opBody_eq, opBody_eq, liveView_cfg,
      emitAll_liveView]
    exact congrArg Host.Outcome.next (opWrites_liveView hqe code)

/-- A step from the live view is a step from the state, up to dead registers. -/
theorem step_liveView (s : State) : liveOutcome (step (liveView s)) = liveOutcome (step s) := by
  cases hS : FsmState.ofCode s.st with
  | none => rw [liveView_of_no_state hS]
  | some S =>
    have hS' : FsmState.ofCode (liveView s).st = some S := by simpa using hS
    cases hq : S.quiescent with
    | false =>
      have hst := code_of_ofCode hS
      rw [step_busy hS hq, step_busy hS' hq, stateEvents_liveView hst, emitAll_liveView]
      exact congrArg Host.Outcome.next (stateWrites_liveView hq hst (by simpa using hst) (emitAll_ret _ s))
    | true =>
      rw [step_quiescent hS hq, step_quiescent hS' hq, stepQuiescent, stepQuiescent, liveView_hostOps]
      cases s.hostOps with
      | nil => rfl
      | cons code rest =>
        simp only [exec_decodeHostOp, liveView_setHostOps]
        exact dispatch_liveView (s := { s with hostOps := rest }) ((isQuiescent_of_ofCode hS).trans hq) code

/-- Settles O50: both steps are the step from the common live view. -/
theorem unwrittenRegistersAreNeverObserved : Obligations.UnwrittenRegistersAreNeverObserved := by
  intro s t h
  rw [← step_liveView s, ← step_liveView t, h]

end Sys2Proof.Machine
end

section
/-! The writers of each register (R25 to R35, R175): what a busy state's writes and events can change, and what an
operation can. -/

namespace Sys2Proof.Machine

/-! The registers a busy state writes. -/

theorem stateWrites_k_writers {S : FsmState} {s t : State} (hne : (stateWrites S s t).k ≠ t.k) :
    (S ∈ [.slowclk, .dStart] ∧ (stateWrites S s t).k = 0) ∨
      (S ∈ [.pEnd, .dNext] ∧ (stateWrites S s t).k = s.k + 1) := by
  cases S with
  | slowclk | dStart => exact .inl ⟨by decide, rfl⟩
  | pEnd => exact .inr ⟨by decide, by simp only [stateWrites]; split <;> rfl⟩
  | dNext =>
    by_cases hlt : s.k.toNat < s.cfg.n
    · exact .inr ⟨by decide, by simp [stateWrites, hlt]⟩
    · exact absurd (by simp [stateWrites, hlt]) hne
  | clrRow => exact absurd (by simp only [stateWrites]; split <;> rfl) hne
  | _ => exact absurd rfl hne

theorem stateWrites_cs_writers {S : FsmState} {s t : State} (hne : (stateWrites S s t).cs ≠ t.cs) :
    (S = .slowclk ∧ (stateWrites S s t).cs = csOf s.cfg 0) ∨
      (S = .pEnd ∧ s.k.toNat + 1 < s.cfg.n ∧ (stateWrites S s t).cs = csOf s.cfg (s.k.toNat + 1)) ∨
      (S = .dNext ∧ s.k.toNat < s.cfg.n ∧ (stateWrites S s t).cs = csOf s.cfg s.k.toNat) := by
  cases S with
  | slowclk => exact .inl ⟨rfl, rfl⟩
  | pEnd =>
    by_cases hlt : s.k.toNat + 1 < s.cfg.n
    · exact .inr (.inl ⟨rfl, hlt, by simp [stateWrites, hlt]⟩)
    · exact absurd (by simp [stateWrites, hlt]) hne
  | dNext =>
    by_cases hlt : s.k.toNat < s.cfg.n
    · exact .inr (.inr ⟨rfl, hlt, by simp [stateWrites, hlt]⟩)
    · exact absurd (by simp [stateWrites, hlt]) hne
  | clrRow => exact absurd (by simp only [stateWrites]; split <;> rfl) hne
  | _ => exact absurd rfl hne

theorem stateWrites_y_writers {S : FsmState} {s t : State} (hne : (stateWrites S s t).y ≠ t.y) :
    (S ∈ [.bklt, .dNext] ∧ (stateWrites S s t).y = 0) ∨ (S = .clrRow ∧ (stateWrites S s t).y = s.y + 1) := by
  cases S with
  | bklt => exact .inl ⟨by decide, rfl⟩
  | dNext =>
    by_cases hlt : s.k.toNat < s.cfg.n
    · exact .inl ⟨by decide, by simp [stateWrites, hlt]⟩
    · exact absurd (by simp [stateWrites, hlt]) hne
  | clrRow =>
    by_cases hlt : s.y.toNat + 1 < s.cfg.ah
    · exact .inr ⟨rfl, by simp [stateWrites, hlt]⟩
    · exact absurd (by simp [stateWrites, hlt]) hne
  | pEnd => exact absurd (by simp only [stateWrites]; split <;> rfl) hne
  | _ => exact absurd rfl hne

theorem stateWrites_ret_writers {S : FsmState} {s t : State} (hne : (stateWrites S s t).ret ≠ t.ret) :
    (S = .bklt ∧ (stateWrites S s t).ret = 0) ∨ (S = .dNext ∧ (stateWrites S s t).ret = 1) := by
  cases S with
  | bklt => exact .inl ⟨rfl, rfl⟩
  | dNext =>
    by_cases hlt : s.k.toNat < s.cfg.n
    · exact .inr ⟨rfl, by simp [stateWrites, hlt]⟩
    · exact absurd (by simp [stateWrites, hlt]) hne
  | clrRow | pEnd => exact absurd (by simp only [stateWrites]; split <;> rfl) hne
  | _ => exact absurd rfl hne

theorem stateWrites_madctl_writer {S : FsmState} {s t : State} (hne : (stateWrites S s t).madctl ≠ t.madctl) :
    S = .addrmode ∧ (stateWrites S s t).madctl = computeMadctl s.cfg := by
  cases S with
  | addrmode => exact ⟨rfl, rfl⟩
  | clrRow | pEnd | dNext => exact absurd (by simp only [stateWrites]; split <;> rfl) hne
  | _ => exact absurd rfl hne

theorem stateWrites_inv_writer {S : FsmState} {s t : State} (hne : (stateWrites S s t).inv ≠ t.inv) :
    S = .invert ∧ (stateWrites S s t).inv = invEffective s.cfg := by
  cases S with
  | invert => exact ⟨rfl, rfl⟩
  | clrRow | pEnd | dNext => exact absurd (by simp only [stateWrites]; split <;> rfl) hne
  | _ => exact absurd rfl hne

/-! The shadows the events of a busy state write. -/

/-- The events that write no shadow register. -/
def keepsShadows : Event → Bool
  | .gpioMode _ | .delay _ | .barrier | .xfer _ _ _ => true
  | .taskAlloc _ _ | .taskTag _ | .taskFill0 | .taskCommit | .taskExec | .taskRelease => true
  | .gpioSet _ | .gpioClr _ | .clkdiv _ | .beginTx _ | .endTx _ => false

/-- A list of such events says nothing of a shadow. -/
theorem shadows_of_keepsShadows {es : List Event} (h : ∀ e ∈ es, keepsShadows e = true) :
    (∀ d, lastClkdiv d es = d) ∧ (∀ c b, bracketOpen c b es = b) ∧ (∀ p l, lastLevel p l es = l) := by
  induction es with
  | nil => exact ⟨fun _ => rfl, fun _ _ => rfl, fun _ _ => rfl⟩
  | cons e es ih =>
    have he := h e List.mem_cons_self
    have hes := ih fun e he => h e (List.mem_cons_of_mem _ he)
    cases e with
    | gpioSet p | gpioClr p | clkdiv d | beginTx c | endTx c => cases he
    | _ => exact hes

theorem commandEvents_keepsShadows (cfg : Config) (c : Line) (i : Instr) :
    ∀ e ∈ commandEvents cfg c i, keepsShadows e = true := by
  cases i <;> simp [commandEvents, pixrow, keepsShadows]

/-- A state that only issues commands writes no shadow. -/
theorem stateEvents_keepsShadows {S : FsmState}
    (hS : S ∉ [.reset, .slowclk, .pBegin, .bklt, .pEnd, .restore]) (s : State) :
    ∀ e ∈ stateEvents S s, keepsShadows e = true := by
  have commands : ∀ e ∈ (commandsOf S s).flatMap (commandEvents s.cfg s.cs), keepsShadows e = true := by
    intro e he
    obtain ⟨i, -, hi⟩ := List.mem_flatMap.mp he
    exact commandEvents_keepsShadows s.cfg s.cs i e hi
  cases S with
  | reset | slowclk | pBegin | bklt | pEnd | restore => exact absurd (by decide) hS
  | idle | ready | dStart | dNext => intro e he; cases he
  | _ => exact commands

theorem stateEvents_clk_writers {S : FsmState} {s : State} {d : ClockShadow}
    (hne : lastClkdiv d (stateEvents S s) ≠ d) :
    (S = .slowclk ∧ lastClkdiv d (stateEvents S s) = .div s.cfg.slowDiv) ∨
      (S = .restore ∧ lastClkdiv d (stateEvents S s) = .div s.cfg.targetDiv) := by
  cases S with
  | slowclk => exact .inl ⟨rfl, rfl⟩
  | restore => exact .inr ⟨rfl, rfl⟩
  | pBegin => exact absurd rfl hne
  | reset => exact absurd (by simp only [stateEvents, resetEvents]; split <;> rfl) hne
  | bklt => exact absurd (by simp only [stateEvents, backlightEvents]; split <;> rfl) hne
  | pEnd => exact absurd (by simp only [stateEvents, endEvents]; split <;> rfl) hne
  | _ => exact absurd ((shadows_of_keepsShadows (stateEvents_keepsShadows (by decide) s)).1 d) hne

theorem stateEvents_open_writers {S : FsmState} {s : State} {c : Line} {b : Bool}
    (hne : bracketOpen c b (stateEvents S s) ≠ b) :
    s.cs = c ∧ ((S = .pBegin ∧ bracketOpen c b (stateEvents S s) = true) ∨
      (S = .pEnd ∧ s.cfg.dmaQueued = false ∧ bracketOpen c b (stateEvents S s) = false)) := by
  cases S with
  | pBegin =>
    by_cases hc : s.cs = c
    · exact ⟨hc, .inl ⟨rfl, by simp [stateEvents, bracketOpen, hc]⟩⟩
    · exact absurd (by simp [stateEvents, bracketOpen, hc]) hne
  | pEnd =>
    cases hd : s.cfg.dmaQueued with
    | true => exact absurd (by simp [stateEvents, endEvents, bracketOpen, hd]) hne
    | false =>
      by_cases hc : s.cs = c
      · exact ⟨hc, .inr ⟨rfl, rfl, by simp [stateEvents, endEvents, bracketOpen, hd, hc]⟩⟩
      · exact absurd (by simp [stateEvents, endEvents, bracketOpen, hd, hc]) hne
  | slowclk | restore => exact absurd rfl hne
  | reset => exact absurd (by simp only [stateEvents, resetEvents]; split <;> rfl) hne
  | bklt => exact absurd (by simp only [stateEvents, backlightEvents]; split <;> rfl) hne
  | _ => exact absurd ((shadows_of_keepsShadows (stateEvents_keepsShadows (by decide) s)).2.1 c b) hne

/-- K10 keeps the reset pulse off the backlight pin (log 10), so `BKLT` alone is left. -/
theorem stateEvents_bl_writer {S : FsmState} {s : State} (hwf : wellFormed s.cfg = true) {l : Backlight}
    (hne : lastLevel s.cfg.backlightPin l (stateEvents S s) ≠ l) :
    s.cfg.backlightPin.isSome = true ∧ S = .bklt ∧
      lastLevel s.cfg.backlightPin l (stateEvents S s) = .high := by
  cases S with
  | bklt =>
    cases hp : s.cfg.backlightPin with
    | none => exact absurd (by simp [stateEvents, backlightEvents, lastLevel, hp]) hne
    | some p => exact ⟨rfl, rfl, by simp [stateEvents, backlightEvents, lastLevel, hp]⟩
  | reset =>
    cases hp : s.cfg.resetPin with
    | none => exact absurd (by simp [stateEvents, resetEvents, lastLevel, hp]) hne
    | some p =>
      have hother := pins_of_wellFormed hwf hp
      exact absurd (by simp [stateEvents, resetEvents, rstpulse, lastLevel, hp, hother]) hne
  | slowclk | pBegin | restore => exact absurd rfl hne
  | pEnd => exact absurd (by simp only [stateEvents, endEvents]; split <;> rfl) hne
  | _ => exact absurd ((shadows_of_keepsShadows (stateEvents_keepsShadows (by decide) s)).2.2 _ l) hne

/-! The pixel task. -/

/-- Events that R103 allows only outside a task leave the task registers alone. -/
theorem emitAll_keepsTask {es : List Event} (h : ∀ e ∈ es, nextPhase .free e = some .free) (s : State) :
    (emitAll es s).taskLive = s.taskLive ∧ (emitAll es s).task = s.task := by
  induction es generalizing s with
  | nil => exact ⟨rfl, rfl⟩
  | cons e es ih =>
    have he := h e List.mem_cons_self
    have hemit : (emit e s).taskLive = s.taskLive ∧ (emit e s).task = s.task := by
      cases e with
      | taskAlloc c n | taskTag o | taskFill0 | taskCommit | taskExec | taskRelease => cases he
      | _ => exact ⟨by simp, by simp⟩
    obtain ⟨hlive, htask⟩ := ih (fun e he => h e (List.mem_cons_of_mem _ he)) (emit e s)
    exact ⟨hlive.trans hemit.1, htask.trans hemit.2⟩

/-- Only `CLR_ROW` runs a pixel task. -/
theorem stateEvents_noTask {S : FsmState} (hS : S ≠ .clrRow) (s : State) :
    ∀ e ∈ stateEvents S s, nextPhase .free e = some .free := by
  cases S with
  | clrRow => exact absurd rfl hS
  | _ =>
    simp only [stateEvents, commandsOf, resetEvents, backlightEvents, endEvents]
    repeat' split
    all_goals simp [commandEvents, rstpulse, nextPhase]

theorem stateEvents_task_writer {S : FsmState} {s : State}
    (hne : (emitAll (stateEvents S s) s).taskLive ≠ s.taskLive ∨ (emitAll (stateEvents S s) s).task ≠ s.task) :
    S = .clrRow ∧ (emitAll (stateEvents S s) s).taskLive = false ∧ (emitAll (stateEvents S s) s).task = none := by
  by_cases hS : S = .clrRow
  · subst hS
    simp [stateEvents, commandsOf, commandEvents, emitAll, emitAll_pixrow]
  · obtain ⟨hlive, htask⟩ := emitAll_keepsTask (stateEvents_noTask hS s) s
    exact absurd hne (by simp [hlive, htask])

/-! The quiescent states. -/

theorem emitAll_opEvents (code : BitVec 2) (s : State) :
    emitAll (opEvents code s.cfg) s = { s with
      trace := s.trace ++ opEvents code s.cfg
      bl := lastLevel s.cfg.backlightPin s.bl (opEvents code s.cfg) } := by
  rcases code_cases code with rfl | rfl | rfl | rfl <;> cases hp : s.cfg.backlightPin <;>
    simp [opEvents, emitAll, lastLevel, hp]

theorem opWrites_qret_writer {code : BitVec 2} {t : State} (hne : (opWrites code t).qret ≠ t.qret) :
    code = 3 ∧ (opWrites code t).qret = if t.st = FsmState.ready.code then 1 else 0 := by
  rcases code_cases code with rfl | rfl | rfl | rfl
  · exact absurd rfl hne
  · exact absurd rfl hne
  · exact absurd rfl hne
  · exact ⟨rfl, rfl⟩

theorem opEvents_bl_writers {code : BitVec 2} {cfg : Config} {l : Backlight}
    (hne : lastLevel cfg.backlightPin l (opEvents code cfg) ≠ l) :
    cfg.backlightPin.isSome = true ∧ ((code = 1 ∧ lastLevel cfg.backlightPin l (opEvents code cfg) = .high) ∨
      (code = 2 ∧ lastLevel cfg.backlightPin l (opEvents code cfg) = .low)) := by
  cases hp : cfg.backlightPin with
  | none => exact absurd (by simp [opEvents, lastLevel, hp]) hne
  | some p =>
    rcases code_cases code with rfl | rfl | rfl | rfl
    · exact absurd rfl hne
    · exact ⟨rfl, .inl ⟨rfl, by simp [opEvents, lastLevel, hp]⟩⟩
    · exact ⟨rfl, .inr ⟨rfl, by simp [opEvents, lastLevel, hp]⟩⟩
    · exact absurd rfl hne

/-- All a step from a quiescent state can do. -/
theorem quiescent_step_cases {s t : State} {S : FsmState} (h : step s = .next t)
    (hS : FsmState.ofCode s.st = some S) (hq : S.quiescent = true) :
    ∃ code rest, s.hostOps = code :: rest ∧
      ((∃ r, firstFailedCheck s.cfg = some r ∧ t = raiseRefuse r { s with hostOps := rest }) ∨
        (firstFailedCheck s.cfg = none ∧
          t = opWrites code (emitAll (opEvents code s.cfg) { s with hostOps := rest }))) := by
  obtain ⟨S', hS', ⟨hbusy, -⟩ | ⟨-, hop⟩⟩ := step_cases h
  · obtain rfl : S' = S := Option.some.inj (hS'.symm.trans hS)
    exact absurd hq (by simp [hbusy])
  · exact hop

/-- What a step from a quiescent state leaves alone. -/
theorem quiescent_step_frame {s t : State} {S : FsmState} (h : step s = .next t)
    (hS : FsmState.ofCode s.st = some S) (hq : S.quiescent = true) :
    t.k = s.k ∧ t.cs = s.cs ∧ t.y = s.y ∧ t.madctl = s.madctl ∧ t.inv = s.inv ∧ t.ret = s.ret ∧ t.clk = s.clk ∧
      t.open0 = s.open0 ∧ t.open1 = s.open1 ∧ t.taskLive = s.taskLive ∧ t.task = s.task := by
  obtain ⟨code, rest, -, ⟨r, -, rfl⟩ | ⟨-, rfl⟩⟩ := quiescent_step_cases h hS hq
  · exact ⟨rfl, rfl, rfl, rfl, rfl, rfl, rfl, rfl, rfl, rfl, rfl⟩
  · have hemit := emitAll_opEvents code { s with hostOps := rest }
    simp only at hemit
    simp [hemit]

/-- What a step from a quiescent state writes, `st` and the output apart. -/
theorem quiescent_step_writers {s t : State} {S : FsmState} (h : step s = .next t)
    (hS : FsmState.ofCode s.st = some S) (hq : S.quiescent = true) :
    (∃ code, s.hostOps = code :: t.hostOps) ∧
    (t.refusedMark ≠ s.refusedMark → t.refusedMark = firstFailedCheck s.cfg) ∧
    (t.qret ≠ s.qret → s.hostOps.head? = some 3 ∧ t.qret = if S = .ready then 1 else 0) ∧
    (t.bl ≠ s.bl → s.cfg.backlightPin.isSome = true ∧
      ((s.hostOps.head? = some 1 ∧ t.bl = .high) ∨ (s.hostOps.head? = some 2 ∧ t.bl = .low))) := by
  obtain ⟨code, rest, hops, ⟨r, hr, rfl⟩ | ⟨-, rfl⟩⟩ := quiescent_step_cases h hS hq
  case inl =>
    refine ⟨⟨code, hops⟩, fun hne => ?_, fun hne => absurd rfl hne, fun hne => absurd rfl hne⟩
    cases hm : s.refusedMark with
    | none => simp [hr]
    | some r' => exact absurd (by simp [hm]) hne
  case inr =>
    have hready : s.st = FsmState.ready.code ↔ S = .ready := by
      rw [code_of_ofCode hS]
      exact ⟨code_injective, congrArg _⟩
    refine ⟨⟨code, by simpa using hops⟩, fun hne => absurd (by simp) hne, fun hne => ?_, fun hne => ?_⟩
    · obtain ⟨rfl, hwrote⟩ := opWrites_qret_writer (ne_of_ne_of_eq hne (by simp))
      exact ⟨by rw [hops]; rfl, by simpa [hready] using hwrote⟩
    · simpa [hops] using opEvents_bl_writers (by simpa using hne)

/-- Settles O43: a busy state's writes and events change their registers as named, an operation at most `qret`, `bl`,
the mark and the input. -/
theorem onlyTheNamedStatesWriteEachRegister : Obligations.OnlyTheNamedStatesWriteEachRegister := by
  intro s t S h hS
  obtain ⟨S', hS', hcases⟩ := step_cases h
  obtain rfl : S' = S := Option.some.inj (hS'.symm.trans hS)
  obtain ⟨-, rfl⟩ | ⟨hq, -⟩ := hcases
  case inl =>
    refine ⟨fun hne => ?_, fun hne => ?_, fun hne => ?_, fun hne => ?_, fun hne => ?_, fun hne => ?_,
      fun hne => absurd (by simp) hne, fun hne => ?_, fun hne => ?_, fun hne => ?_, fun hwf hne => ?_,
      fun hne => ?_, fun hne => absurd (by simp) hne, fun hne => absurd (by simp) hne⟩
    · exact stateWrites_k_writers (by simpa using hne)
    · exact stateWrites_cs_writers (by simpa using hne)
    · exact stateWrites_y_writers (by simpa using hne)
    · exact stateWrites_madctl_writer (by simpa using hne)
    · exact stateWrites_inv_writer (by simpa using hne)
    · exact stateWrites_ret_writers (by simpa using hne)
    · simpa using stateEvents_clk_writers (by simpa using hne)
    · simpa using stateEvents_open_writers (by simpa using hne)
    · simpa using stateEvents_open_writers (by simpa using hne)
    · obtain ⟨hpin, hbklt, hhigh⟩ := stateEvents_bl_writer hwf (by simpa using hne)
      exact ⟨hpin, .inl ⟨hbklt, by simpa using hhigh⟩⟩
    · simpa using stateEvents_task_writer (by simpa using hne)
  case inr =>
    obtain ⟨hk, hcs, hy, hmadctl, hinv, hret, hclk, hopen0, hopen1, hlive, htask⟩ :=
      quiescent_step_frame h hS hq
    obtain ⟨hops, hmark, hqret, hbl⟩ := quiescent_step_writers h hS hq
    exact ⟨absurd hk, absurd hcs, absurd hy, absurd hmadctl, absurd hinv, absurd hret,
      fun hne => ⟨hq, hqret hne⟩, absurd hclk, absurd hopen0, absurd hopen1,
      fun _ hne => (hbl hne).imp_right fun hwrote => .inr (hwrote.imp (⟨hq, ·⟩) (⟨hq, ·⟩)),
      fun hne => hne.elim (absurd hlive) (absurd htask), fun hne => ⟨hq, hmark hne⟩, fun _ => ⟨hq, hops⟩⟩

end Sys2Proof.Machine
end

section
/-! The ordering contract over an Init (R63, R202): every clock-divisor write but the last has its barrier. -/

namespace Sys2Proof.Machine

/-! Where the unbarriered writes of a list stand. -/

@[simp] theorem unbarriered_cons_zero (e : Event) (es : List Event) :
    unbarriered (e :: es) 0 = (isClkdiv e && es.head? != some .barrier) := by
  cases e <;> simp [unbarriered, isClkdiv, List.head?_eq_getElem?]

@[simp] theorem unbarriered_cons_succ (e : Event) (es : List Event) (i : Nat) :
    unbarriered (e :: es) (i + 1) = unbarriered es i := by
  simp [unbarriered]

@[simp] theorem unbarriered_append_length_add (l r : List Event) (i : Nat) :
    unbarriered (l ++ r) (l.length + i) = unbarriered r i := by
  induction l with
  | nil => simp
  | cons e l ih => simpa [Nat.add_right_comm] using ih

/-- A prefix without divisor writes holds no unbarriered one. -/
theorem exists_of_unbarriered_append {l r : List Event} {i : Nat} (hl : l.any isClkdiv = false)
    (hu : unbarriered (l ++ r) i = true) : ∃ k, i = l.length + k ∧ unbarriered r k = true := by
  induction l generalizing i with
  | nil => exact ⟨i, by simp, hu⟩
  | cons e l ih =>
    obtain ⟨he, hl⟩ : isClkdiv e = false ∧ l.any isClkdiv = false := by simpa using hl
    cases i with
    | zero => simp [he] at hu
    | succ i =>
      obtain ⟨k, rfl, hk⟩ := ih hl (by simpa using hu)
      exact ⟨k, by simp [Nat.add_right_comm], hk⟩

/-- Of two events of a trace, the earlier must precede unless it is an unbarriered write. -/
theorem mustPrecede_of_lt {tr : List Event} {i j : Nat} (hij : i < j) (hj : j < tr.length) :
    mustPrecede tr i j = !unbarriered tr i := by
  simp [mustPrecede, hij, hj]

theorem mustPrecede_of_unbarriered {tr : List Event} {i : Nat} (hu : unbarriered tr i = true) (j : Nat) :
    mustPrecede tr i j = false := by
  simp [mustPrecede, hu]

/-! The divisor writes of an Init. -/

@[simp] theorem any_whenOn (p : Event → Bool) (b : Bool) (l : List Event) :
    (whenOn b l).any p = (b && l.any p) := by
  cases b <;> simp [whenOn]

@[simp] theorem resetEvents_any_isClkdiv (cfg : Config) : (resetEvents cfg).any isClkdiv = false := by
  cases h : cfg.resetPin <;> simp [resetEvents, rstpulse, h, isClkdiv]

@[simp] theorem backlightEvents_any_isClkdiv (cfg : Config) : (backlightEvents cfg).any isClkdiv = false := by
  cases h : cfg.backlightPin <;> simp [backlightEvents, h, isClkdiv]

@[simp] theorem panelCommands_any_isClkdiv (cfg : Config) (c : Line) :
    (panelCommands cfg c).any isClkdiv = false := by
  cases h : invEffective cfg <;> simp [panelCommands, h, isClkdiv]

@[simp] theorem clear_any_isClkdiv (cfg : Config) (c : Line) : (clear cfg c).any isClkdiv = false := by
  simp [clear, clearRow, setwin, pixrow, finalwin, isClkdiv]

@[simp] theorem panel_any_isClkdiv (cfg : Config) (c : Line) : (panel cfg c).any isClkdiv = false := by
  simp [panel, isClkdiv]

/-- The panel blocks of an Init and the settle delay: what stands between its barrier and the restore. -/
def initBody (cfg : Config) : List Event :=
  (List.range cfg.n).flatMap (fun k => panel cfg (csOf cfg k)) ++ [.delay cfg.t.settle]

@[simp] theorem initBody_any_isClkdiv (cfg : Config) : (initBody cfg).any isClkdiv = false := by
  simp [initBody, isClkdiv]

/-- An Init up to its last event, the restore of the divisor. -/
def initBeforeRestore (cfg : Config) : List Event :=
  resetEvents cfg ++ [.clkdiv cfg.slowDiv, .barrier] ++ initBody cfg

theorem initTrace_eq_append_restore (cfg : Config) :
    initTrace cfg = initBeforeRestore cfg ++ [.clkdiv cfg.targetDiv] := by
  simp [initTrace, initBeforeRestore, initBody]

theorem initTrace_length (cfg : Config) : (initTrace cfg).length = (initBeforeRestore cfg).length + 1 := by
  simp [initTrace_eq_append_restore]

/-- Before the restore there is one divisor write, and its barrier is the next event. -/
theorem length_le_of_unbarriered_initBeforeRestore {cfg : Config} {later : List Event} {i : Nat}
    (hu : unbarriered (initBeforeRestore cfg ++ later) i = true) : (initBeforeRestore cfg).length ≤ i := by
  simp only [initBeforeRestore, List.append_assoc] at hu
  obtain ⟨k, rfl, hk⟩ := exists_of_unbarriered_append (resetEvents_any_isClkdiv cfg) hu
  match k with
  | 0 => simp at hk
  | 1 => simp [isClkdiv] at hk
  | k + 2 =>
    obtain ⟨m, rfl, -⟩ := exists_of_unbarriered_append (initBody_any_isClkdiv cfg) (by simpa using hk)
    simp only [initBeforeRestore, List.length_append, List.length_cons, List.length_nil]
    omega

theorem restore_unbarriered (cfg : Config) {later : List Event} (hlater : later.head? ≠ some .barrier) :
    unbarriered (initTrace cfg ++ later) (initBeforeRestore cfg).length = true := by
  have hat := unbarriered_append_length_add (initBeforeRestore cfg) (.clkdiv cfg.targetDiv :: later) 0
  simpa [initTrace_eq_append_restore, isClkdiv, bne_iff_ne.mpr hlater] using hat

/-- Settles O57: the restore is the only event of an Init that is an unbarriered write. -/
theorem initIsOrderedExceptForTheRestore : Obligations.InitIsOrderedExceptForTheRestore := by
  intro cfg later i j hlater hij hj
  rw [mustPrecede_of_lt hij hj, initTrace_length, Nat.add_sub_cancel]
  refine ⟨?_, mustPrecede_of_unbarriered (restore_unbarriered cfg hlater) j⟩
  cases hu : unbarriered (initTrace cfg ++ later) i with
  | false => exact .inl rfl
  | true =>
    rw [initTrace_eq_append_restore, List.append_assoc] at hu
    have hlast := length_le_of_unbarriered_initBeforeRestore hu
    omega

end Sys2Proof.Machine
end

section
/-! The encoder and the decoder invert each other (R70 to R82, R85): the opcode map is one to one when the opcodes are
distinct, and each command's arguments are read back as they were framed. -/

namespace Sys2Proof

/-! The opcode map (R78). -/

/-- The opcode parameter of a command. -/
def Cmd.opcode (cfg : Config) : Cmd → Byte
  | .swreset => cfg.opc.swreset
  | .slpout => cfg.opc.slpout
  | .noron => cfg.opc.noron
  | .invoff => cfg.opc.invoff
  | .invon => cfg.opc.invon
  | .gamset => cfg.opc.gamset
  | .dispon => cfg.opc.dispon
  | .caset => cfg.opc.caset
  | .raset => cfg.opc.raset
  | .ramwr => cfg.opc.ramwr
  | .madctl => cfg.opc.madctl
  | .vscrsadd => cfg.opc.vscrsadd
  | .colmod => cfg.opc.colmod
  | .frmctr1 => cfg.opc.frmctr1
  | .dgmen => cfg.opc.dgmen

theorem opcodeRows_map_fst (cfg : Config) : (opcodeRows cfg).map Prod.fst = cfg.opc.toList := rfl

/-- The map has one row for each command, with its opcode parameter. -/
theorem mem_opcodeRows {cfg : Config} {b : Byte} {c : Cmd} : (b, c) ∈ opcodeRows cfg ↔ b = c.opcode cfg := by
  cases c <;> simp [opcodeRows, Cmd.opcode]

/-- Among rows with distinct bytes the first match is the only one. -/
theorem findRow_of_mem {b : Byte} {c : Cmd} {rows : List (Byte × Cmd)} (hnd : (rows.map Prod.fst).Nodup)
    (hmem : (b, c) ∈ rows) : findRow b rows = some c := by
  induction rows with
  | nil => cases hmem
  | cons r rows ih =>
    obtain ⟨o, d⟩ := r
    obtain ⟨hnot, hrest⟩ := List.nodup_cons.mp hnd
    rcases List.mem_cons.mp hmem with heq | htail
    · cases heq
      simp [findRow]
    · have hne : o ≠ b := fun he => hnot (List.mem_map.mpr ⟨(b, c), htail, he.symm⟩)
      rw [findRow, if_neg hne, ih hrest htail]

theorem cmdOfByte_opcode {cfg : Config} (hnd : cfg.opc.toList.Nodup) (c : Cmd) :
    cmdOfByte cfg (c.opcode cfg) = some c :=
  findRow_of_mem hnd (mem_opcodeRows.mpr rfl)

theorem opcode_of_cmdOfByte {cfg : Config} {b : Byte} {c : Cmd} (h : cmdOfByte cfg b = some c) :
    c.opcode cfg = b :=
  (mem_opcodeRows.mp (findRow_some h)).symm

theorem cmdOfByte_eq_none {cfg : Config} {b : Byte} (h : b ∉ cfg.opc.toList) : cmdOfByte cfg b = none :=
  findRow_none.mpr fun _ hr he => h (he ▸ opcodeRows_map_fst cfg ▸ List.mem_map_of_mem hr)

/-! The transfer of a controller command (R70). -/

/-- The row of the opcode map an instruction belongs to; none for a host operation. -/
def Instr.cmd : Instr → Option Cmd
  | .swreset => some .swreset
  | .slpout => some .slpout
  | .noron => some .noron
  | .invoff => some .invoff
  | .invon => some .invon
  | .gamset _ => some .gamset
  | .dispon => some .dispon
  | .caset _ _ => some .caset
  | .raset _ _ => some .raset
  | .ramwr => some .ramwr
  | .madctl _ => some .madctl
  | .vscrsadd _ => some .vscrsadd
  | .colmod _ => some .colmod
  | .frmctr1 _ => some .frmctr1
  | .dgmen _ => some .dgmen
  | .opInit | .opDisplayOn | .opDisplayOff | .opDeinit => none

theorem exists_cmd_of_not_isHostOp {i : Instr} (h : i.isHostOp = false) : ∃ c, i.cmd = some c := by
  cases i with
  | opInit | opDisplayOn | opDisplayOff | opDeinit => cases h
  | _ => exact ⟨_, rfl⟩

theorem encode_of_cmd {i : Instr} {c : Cmd} (h : i.cmd = some c) (cfg : Config) :
    encode cfg i = .transfer (c.opcode cfg :: encodeArgs cfg i) := by
  cases i <;> cases h <;> rfl

theorem transferBytes_of_cmd {i : Instr} {c : Cmd} (h : i.cmd = some c) (cfg : Config) :
    transferBytes cfg i = c.opcode cfg :: encodeArgs cfg i := by
  rw [transferBytes, encode_of_cmd h]

theorem encode_eq_transferBytes {i : Instr} {c : Cmd} (h : i.cmd = some c) (cfg : Config) :
    encode cfg i = .transfer (transferBytes cfg i) := by
  rw [transferBytes_of_cmd h, encode_of_cmd h]

/-! Each argument form (R75): what it reads off a framed operand, and what it can read. -/

theorem decodeScalar_frameScalar (cfg : Config) (c : Cmd) (mk : Byte → Instr) (b : Byte) (rest : List Byte) :
    decodeScalar cfg c mk (frameScalar cfg b ++ rest) = .ok (mk b, rest) := by
  simp [decodeScalar]

theorem decodeScalars_frameScalars {cfg : Config} {bs : List Byte} (h : bs.length = cfg.argFrmctr1.length)
    (c : Cmd) (mk : List Byte → Instr) (rest : List Byte) :
    decodeScalars cfg c mk (frameScalars cfg bs ++ rest) = .ok (mk bs, rest) := by
  simp [decodeScalars, ← h]

theorem decodeCoord_frameCoord {cfg : Config} {v : Coord} (h : coordFits cfg v = true) (c : Cmd)
    (mk : Coord → Instr) (rest : List Byte) :
    decodeCoord cfg c mk (frameCoord cfg v ++ rest) = .ok (mk v, rest) := by
  simp [decodeCoord, takeCoord_frameCoord h]

theorem decodePair_coordPair {cfg : Config} {a b : Coord} (h : (coordFits cfg a && coordFits cfg b) = true)
    (c : Cmd) (mk : Coord → Coord → Instr) (rest : List Byte) :
    decodePair cfg c mk (coordPair cfg a b ++ rest) = .ok (mk a b, rest) := by
  obtain ⟨ha, hb⟩ := Bool.and_eq_true_iff.mp h
  simp [decodePair, takePair_coordPair ha hb]

theorem decodePayload_replicate (cfg : Config) (rest : List Byte) :
    decodePayload cfg (List.replicate (taskSize cfg) 0x00 ++ rest) = .ok (.ramwr, rest) := by
  simp [decodePayload]

theorem decodeScalar_eq_ok {cfg : Config} {c : Cmd} {mk : Byte → Instr} {bytes rest : List Byte} {i : Instr}
    (h : decodeScalar cfg c mk bytes = .ok (i, rest)) : ∃ b, i = mk b ∧ bytes = frameScalar cfg b ++ rest := by
  unfold decodeScalar at h
  split at h
  case h_1 b r hb =>
    cases h
    exact ⟨b, rfl, frameScalar_of_takeScalar hb⟩
  case h_2 => cases h

theorem decodeScalars_eq_ok {cfg : Config} {c : Cmd} {mk : List Byte → Instr} {bytes rest : List Byte} {i : Instr}
    (h : decodeScalars cfg c mk bytes = .ok (i, rest)) :
    ∃ bs, i = mk bs ∧ bytes = frameScalars cfg bs ++ rest ∧ bs.length = cfg.argFrmctr1.length := by
  unfold decodeScalars at h
  split at h
  case h_1 bs r hbs =>
    cases h
    exact ⟨bs, rfl, frameScalars_of_takeScalars hbs⟩
  case h_2 => cases h

theorem decodeCoord_eq_ok {cfg : Config} {c : Cmd} {mk : Coord → Instr} {bytes rest : List Byte} {i : Instr}
    (h : decodeCoord cfg c mk bytes = .ok (i, rest)) :
    ∃ v, i = mk v ∧ bytes = frameCoord cfg v ++ rest ∧ coordFits cfg v = true := by
  unfold decodeCoord at h
  split at h
  case h_1 v r hv =>
    cases h
    exact ⟨v, rfl, frameCoord_of_takeCoord hv⟩
  case h_2 => cases h

theorem decodePair_eq_ok {cfg : Config} {c : Cmd} {mk : Coord → Coord → Instr} {bytes rest : List Byte} {i : Instr}
    (h : decodePair cfg c mk bytes = .ok (i, rest)) :
    ∃ a b, i = mk a b ∧ bytes = coordPair cfg a b ++ rest ∧ (coordFits cfg a && coordFits cfg b) = true := by
  unfold decodePair at h
  split at h
  case h_1 a b r hab =>
    cases h
    obtain ⟨hbytes, ha, hb⟩ := coordPair_of_takePair hab
    exact ⟨a, b, rfl, hbytes, Bool.and_eq_true_iff.mpr ⟨ha, hb⟩⟩
  case h_2 => cases h

theorem decodePayload_eq_ok {cfg : Config} {bytes rest : List Byte} {i : Instr}
    (h : decodePayload cfg bytes = .ok (i, rest)) :
    i = .ramwr ∧ bytes = List.replicate (taskSize cfg) 0x00 ++ rest := by
  unfold decodePayload at h
  split at h
  case h_1 r hr =>
    cases h
    exact ⟨rfl, replicate_of_takeZeros hr⟩
  case h_2 => cases h

/-! The arguments of a command, whatever its form. -/

/-- A receiver reads a well-formed command off its framed arguments and leaves what follows. -/
theorem decodeArgs_encodeArgs {cfg : Config} {i : Instr} {c : Cmd} (hc : i.cmd = some c) (hwf : i.wf cfg = true)
    (rest : List Byte) : decodeArgs cfg c (encodeArgs cfg i ++ rest) = .ok (i, rest) := by
  cases i with
  | gamset b | madctl b | colmod b | dgmen b =>
    cases hc
    exact decodeScalar_frameScalar cfg _ _ b rest
  | caset a b | raset a b =>
    cases hc
    exact decodePair_coordPair hwf _ _ rest
  | vscrsadd off =>
    cases hc
    exact decodeCoord_frameCoord hwf _ _ rest
  | frmctr1 args =>
    cases hc
    exact decodeScalars_frameScalars (beq_iff_eq.mp hwf) _ _ rest
  | ramwr =>
    cases hc
    exact decodePayload_replicate cfg rest
  | swreset | slpout | noron | invoff | invon | dispon =>
    cases hc
    rfl
  | opInit | opDisplayOn | opDisplayOff | opDeinit => cases hc

/-- What is read off a command's arguments is a well-formed instruction of that command, framed there. -/
theorem decodeArgs_eq_ok {cfg : Config} {c : Cmd} {bytes rest : List Byte} {i : Instr}
    (h : decodeArgs cfg c bytes = .ok (i, rest)) :
    i.cmd = some c ∧ bytes = encodeArgs cfg i ++ rest ∧ i.wf cfg = true := by
  cases c with
  | gamset | madctl | colmod | dgmen =>
    obtain ⟨b, rfl, hbytes⟩ := decodeScalar_eq_ok h
    exact ⟨rfl, hbytes, rfl⟩
  | caset | raset =>
    obtain ⟨a, b, rfl, hbytes, hfits⟩ := decodePair_eq_ok h
    exact ⟨rfl, hbytes, hfits⟩
  | vscrsadd =>
    obtain ⟨v, rfl, hbytes, hfits⟩ := decodeCoord_eq_ok h
    exact ⟨rfl, hbytes, hfits⟩
  | frmctr1 =>
    obtain ⟨bs, rfl, hbytes, hlen⟩ := decodeScalars_eq_ok h
    exact ⟨rfl, hbytes, beq_iff_eq.mpr hlen⟩
  | ramwr =>
    obtain ⟨rfl, hbytes⟩ := decodePayload_eq_ok h
    exact ⟨rfl, hbytes, rfl⟩
  | swreset | slpout | noron | invoff | invon | dispon =>
    cases h
    exact ⟨rfl, rfl, rfl⟩

/-! Whole transfers. -/

/-- What is read off a byte stream is a well-formed command, whose transfer the stream starts with. -/
theorem decodeTransfer_eq_ok {cfg : Config} {bytes rest : List Byte} {i : Instr}
    (h : decodeTransfer cfg bytes = .ok (i, rest)) :
    ∃ c, i.cmd = some c ∧ bytes = transferBytes cfg i ++ rest ∧ i.wf cfg = true := by
  unfold decodeTransfer at h
  split at h
  case h_1 => cases h
  case h_2 o args =>
    split at h
    case h_1 c hc =>
      obtain ⟨hcmd, rfl, hwf⟩ := decodeArgs_eq_ok h
      exact ⟨c, hcmd, by rw [transferBytes_of_cmd hcmd, opcode_of_cmdOfByte hc]; rfl, hwf⟩
    case h_2 => cases h

/-- The receiver splits a stream after the transfer it starts with (R82). -/
theorem decodeTransfer_transferBytes_append {cfg : Config} {i : Instr} {c : Cmd} (hnd : cfg.opc.toList.Nodup)
    (hc : i.cmd = some c) (hwf : i.wf cfg = true) (rest : List Byte) :
    decodeTransfer cfg (transferBytes cfg i ++ rest) = .ok (i, rest) := by
  rw [transferBytes_of_cmd hc, List.cons_append, decodeTransfer, cmdOfByte_opcode hnd]
  exact decodeArgs_encodeArgs hc hwf rest

/-- Bytes decode to an instruction when they are one transfer with nothing after it. -/
theorem decode_transfer_eq_ok_iff {cfg : Config} {bytes : List Byte} {i : Instr} :
    decode cfg (.transfer bytes) = .ok i ↔ decodeTransfer cfg bytes = .ok (i, []) := by
  refine ⟨fun h => ?_, fun h => by simp [decode, h]⟩
  simp only [decode] at h
  split at h
  case h_1 j hj =>
    cases h
    exact hj
  all_goals cases h

/-! The host operations (R85). -/

theorem encode_decodeHostOp (cfg : Config) (code : BitVec 2) : encode cfg (decodeHostOp code) = .hostOp code := by
  rcases Machine.code_cases code with rfl | rfl | rfl | rfl <;> rfl

theorem wf_decodeHostOp (cfg : Config) (code : BitVec 2) : (decodeHostOp code).wf cfg = true := by
  rcases Machine.code_cases code with rfl | rfl | rfl | rfl <;> rfl

/-- An instruction outside the opcode map is the operation of some code. -/
theorem exists_code_of_cmd_eq_none {i : Instr} (h : i.cmd = none) : ∃ code, i = decodeHostOp code := by
  cases i with
  | opInit => exact ⟨0, rfl⟩
  | opDisplayOn => exact ⟨1, rfl⟩
  | opDisplayOff => exact ⟨2, rfl⟩
  | opDeinit => exact ⟨3, rfl⟩
  | _ => cases h

/-! The obligations. -/

/-- Settles O36: a command by splitting its transfer off an empty stream, a host operation by its code. -/
theorem decodeInvertsEncode : Obligations.DecodeInvertsEncode := by
  intro cfg i hnd hwf
  cases hc : i.cmd with
  | some c =>
    rw [encode_eq_transferBytes hc, decode_transfer_eq_ok_iff]
    simpa using decodeTransfer_transferBytes_append hnd hc hwf []
  | none =>
    obtain ⟨code, rfl⟩ := exists_code_of_cmd_eq_none hc
    rw [encode_decodeHostOp, decode]

/-- Settles O38, by the place the instruction is seen. -/
theorem encodeInvertsDecode : Obligations.EncodeInvertsDecode := by
  intro cfg e i h
  cases e with
  | transfer bytes =>
    obtain ⟨c, hc, hbytes, hwf⟩ := decodeTransfer_eq_ok (decode_transfer_eq_ok_iff.mp h)
    rw [List.append_nil] at hbytes
    exact ⟨hbytes ▸ encode_eq_transferBytes hc cfg, hwf⟩
  | hostOp code =>
    cases h
    exact ⟨encode_decodeHostOp cfg code, wf_decodeHostOp cfg code⟩

/-- Settles O37: the opcode names the command, and its arguments end where the rest begins. -/
theorem transferStreamSplits : Obligations.TransferStreamSplits := by
  intro cfg i rest hnd hwf hhost
  obtain ⟨c, hc⟩ := exists_cmd_of_not_isHostOp hhost
  exact decodeTransfer_transferBytes_append hnd hc hwf rest

/-- Settles O39: no row of the opcode map has the byte. -/
theorem reservedOpcodesAreRejected : Obligations.ReservedOpcodesAreRejected := by
  intro cfg o rest h
  rw [decodeTransfer, cmdOfByte_eq_none h]

/-! Framing as arithmetic (R72 to R74). -/

theorem hi8_eq_ofNat (v : Coord) : hi8 v = BitVec.ofNat 8 (v.toNat / 256) := by
  rw [← hi8_toNat, BitVec.ofNat_toNat, BitVec.setWidth_eq]

theorem lo8_eq_ofNat (v : Coord) : lo8 v = BitVec.ofNat 8 (v.toNat % 256) := by
  rw [← lo8_toNat, BitVec.ofNat_toNat, BitVec.setWidth_eq]

theorem frameScalars_eq_flatMap (cfg : Config) (bs : List Byte) :
    frameScalars cfg bs = bs.flatMap (frameScalar cfg) := by
  induction bs with
  | nil => rfl
  | cons b bs ih => rw [frameScalars, ih, List.flatMap_cons]

/-- Settles O34: the two halves of a coordinate are its quotient and remainder by 256. -/
theorem framingByBusMode : Obligations.FramingByBusMode := by
  refine ⟨fun cfg b => ?_, frameScalars_eq_flatMap, fun cfg v hm => ?_, fun cfg v hm => ?_, fun cfg v hm hv => ?_,
    fun cfg a b => rfl⟩
  · simp only [frameScalar, padsScalar, Bool.and_eq_true, beq_iff_eq]
  · simp only [frameCoord, hm, hi8_eq_ofNat, lo8_eq_ofNat]
  · simp only [frameCoord, hm, hi8_eq_ofNat, lo8_eq_ofNat]
  · have hlt : v.toNat < 256 := by omega
    simp only [frameCoord, hm, lo8_eq_ofNat, Nat.mod_eq_of_lt hlt]

/-- Settles O35: each word is decoded under the configuration of `State.reset`. -/
theorem tableWordsDecode : Obligations.TableWordsDecode := by
  unfold Obligations.TableWordsDecode
  decide

end Sys2Proof
end

section
/-! The events the block emits are legal (R79, R80, R26): every command the FSM issues is well-formed, and the events of
a well-formed command pass the trace checker. -/

namespace Sys2Proof.Machine

/-- An event that passes the trace checker of R79 and carries the line c if it carries one. -/
def LegalOnLine (cfg : Config) (c : Line) (e : Event) : Prop :=
  eventOk cfg e = true ∧ (eventLine e = none ∨ eventLine e = some c)

/-! The events of a command. -/

/-- A controller command emits its transfer, delays, or the events of a pixel task. -/
theorem commandEvents_cases {cfg : Config} {c : Line} {i : Instr} {e : Event} (h : e ∈ commandEvents cfg c i) :
    (∃ o a, e = .xfer c o a ∧ encode cfg i = .transfer (o :: a)) ∨ (∃ t, e = .delay t) ∨ e ∈ pixrow cfg c := by
  cases i with
  | swreset | slpout | noron | dispon | madctl _ | colmod _ =>
    rcases List.mem_pair.mp h with rfl | rfl
    · exact .inl ⟨_, _, rfl, rfl⟩
    · exact .inr (.inl ⟨_, rfl⟩)
  | invoff | invon | gamset _ | caset _ _ | raset _ _ | vscrsadd _ | frmctr1 _ | dgmen _ =>
    obtain rfl := List.mem_singleton.mp h
    exact .inl ⟨_, _, rfl, rfl⟩
  | ramwr => exact .inr (.inr h)
  | opInit | opDisplayOn | opDisplayOff | opDeinit => cases h

/-- The trace checker takes the transfer of a well-formed command, by the round trip of the encoding. -/
theorem eventOk_xfer {cfg : Config} (hnd : cfg.opc.toList.Nodup) {i : Instr} (hwf : i.wf cfg = true) {o : Byte}
    {a : List Byte} (henc : encode cfg i = .transfer (o :: a)) (c : Line) : eventOk cfg (.xfer c o a) = true := by
  have hdec := decodeInvertsEncode cfg i hnd hwf
  rw [henc] at hdec
  simp [eventOk, hdec]

theorem pixrow_legal {cfg : Config} (hnd : cfg.opc.toList.Nodup) (c : Line) :
    ∀ e ∈ pixrow cfg c, LegalOnLine cfg c e := by
  have htag : cmdOfByte cfg cfg.opc.ramwr = some .ramwr := cmdOfByte_opcode hnd .ramwr
  simp [pixrow, LegalOnLine, eventLine, eventOk, htag]

theorem commandEvents_legal {cfg : Config} (hnd : cfg.opc.toList.Nodup) {i : Instr} (hwf : i.wf cfg = true)
    (c : Line) : ∀ e ∈ commandEvents cfg c i, LegalOnLine cfg c e := by
  intro e he
  rcases commandEvents_cases he with ⟨o, a, rfl, henc⟩ | ⟨t, rfl⟩ | hpix
  · exact ⟨eventOk_xfer hnd hwf henc c, .inr rfl⟩
  · exact ⟨rfl, .inl rfl⟩
  · exact pixrow_legal hnd c e hpix

/-! The commands the FSM issues have operands the bus mode can carry (R80). -/

@[simp] theorem coordFits_zero (cfg : Config) : coordFits cfg 0#16 = true := by
  unfold coordFits
  split <;> rfl

theorem coordFits_row {cfg : Config} (hwf : wellFormed cfg = true) {y : Coord} (hy : y.toNat < cfg.ah) :
    coordFits cfg y = true := by
  simpa [coordOfNat] using (coordFits_of_wellFormed hwf (.inr (.inl hy))).2

/-- The coordinates of the vertical scroll and of the clear are below W or AH, or are the final bounds; every other
operand is a byte or the configured frame-rate list. -/
theorem commandsOf_wf {s : State} (hwf : wellFormed s.cfg = true) (hy : s.y.toNat < s.cfg.ah) (S : FsmState) :
    ∀ i ∈ commandsOf S s, i.wf s.cfg = true := by
  obtain ⟨hw, -, hh, hah, -⟩ := geometry_of_wellFormed hwf
  have hfits {v : Nat} (hv : v < s.cfg.w ∨ v < s.cfg.ah ∨ v ≤ s.cfg.finalXEnd ∨ v ≤ s.cfg.finalYEnd) :
      coordFits s.cfg (coordOfNat v) = true := (coordFits_of_wellFormed hwf hv).2
  cases S with
  | vscroll =>
    have hoff := hfits (v := s.cfg.ah - s.cfg.w) (by omega)
    simp [commandsOf, Instr.wf, hoff]
  | clrRow =>
    have hx := hfits (v := s.cfg.w - 1) (by omega)
    have hyEnd := hfits (v := s.cfg.ah - 1) (by omega)
    simp [commandsOf, Instr.wf, coordFits_row hwf hy, hx, hyEnd]
  | clrFinal =>
    have hx := hfits (v := s.cfg.finalXEnd) (by omega)
    have hyEnd := hfits (v := s.cfg.finalYEnd) (by omega)
    simp [commandsOf, Instr.wf, hx, hyEnd]
  | gamma | invert =>
    simp only [commandsOf]
    split_ifs <;> simp [Instr.wf]
  | _ => simp [commandsOf, Instr.wf]

/-! The events of a step. -/

/-- A busy state's events: those of its well-formed commands, or events no check and no line but `cs` concerns. -/
theorem stateEvents_legal {s : State} (hwf : wellFormed s.cfg = true) (hy : s.y.toNat < s.cfg.ah) (S : FsmState) :
    ∀ e ∈ stateEvents S s, LegalOnLine s.cfg s.cs e := by
  have hcommands : ∀ e ∈ (commandsOf S s).flatMap (commandEvents s.cfg s.cs), LegalOnLine s.cfg s.cs e := by
    intro e he
    obtain ⟨i, hi, hei⟩ := List.mem_flatMap.mp he
    exact commandEvents_legal (opcodes_of_wellFormed hwf) (commandsOf_wf hwf hy S i hi) s.cs e hei
  cases S with
  | idle | ready | dStart | dNext => exact fun e he => absurd he List.not_mem_nil
  | reset =>
    cases hp : s.cfg.resetPin <;>
      simp [stateEvents, resetEvents, rstpulse, hp, LegalOnLine, eventOk, eventLine]
  | bklt =>
    cases hp : s.cfg.backlightPin <;>
      simp [stateEvents, backlightEvents, hp, LegalOnLine, eventOk, eventLine]
  | pEnd =>
    cases hq : s.cfg.dmaQueued <;>
      simp [stateEvents, endEvents, hq, LegalOnLine, eventOk, eventLine]
  | slowclk | pBegin | restore => simp [stateEvents, LegalOnLine, eventOk, eventLine]
  | _ => exact hcommands

/-- An operation's level event is checked for nothing and carries no line. -/
theorem opEvents_legal (code : BitVec 2) (cfg : Config) (c : Line) :
    ∀ e ∈ opEvents code cfg, LegalOnLine cfg c e := by
  unfold opEvents
  split
  · simp [LegalOnLine, eventOk, eventLine]
  · split
    · simp [LegalOnLine, eventOk, eventLine]
    · simp

/-- Settles O40: a busy block has a well-formed configuration, so its commands are well-formed; a refused operation
emits nothing. -/
theorem everyEmittedEventIsLegal : Obligations.EveryEmittedEventIsLegal := by
  intro s t hinv h
  obtain ⟨S, hS, ⟨hq, rfl⟩ | ⟨-, code, rest, -, ⟨r, -, rfl⟩ | ⟨-, rfl⟩⟩⟩ := step_cases h
  case inl =>
    have hwf : wellFormed s.cfg = true := hinv.busy ((isQuiescent_of_ofCode hS).trans hq)
    exact ⟨stateEvents S s, by simp, stateEvents_legal hwf (hinv.rowIndex hwf) S⟩
  case inr.inl => exact ⟨[], by simp, fun e he => absurd he List.not_mem_nil⟩
  case inr.inr => exact ⟨opEvents code s.cfg, by simp, opEvents_legal code s.cfg s.cs⟩

end Sys2Proof.Machine
end

section
/-! The window commands (R90, R91) and the bounds a clear row's pair carries (R92, R95). -/

namespace Sys2Proof.Machine

/-- Settles O13: a window command emits its one transfer. -/
theorem windowCommands : Obligations.WindowCommands :=
  ⟨fun s xs xe => exec_command (i := .caset xs xe) rfl s, fun s ys ye => exec_command (i := .raset ys ye) rfl s⟩

/-- The window of row `y`, column range first (R92), then its pixel task (R103). -/
theorem stateEvents_clrRow (s : State) :
    stateEvents .clrRow s =
      [.xfer s.cs s.cfg.opc.caset (coordPair s.cfg 0 (coordOfNat (s.cfg.w - 1))),
        .xfer s.cs s.cfg.opc.raset (coordPair s.cfg s.y (coordOfNat (s.cfg.ah - 1)))] ++ pixrow s.cfg s.cs := rfl

/-- A receiver reads exactly the two bounds off the arguments of a window command. -/
theorem takePair_coordPair_nil {cfg : Config} {a b : Coord} (ha : coordFits cfg a = true)
    (hb : coordFits cfg b = true) : takePair cfg (coordPair cfg a b) = some ((a, b), []) := by
  simpa using takePair_coordPair ha hb []

/-- Settles O18: every bound is below W or AH, so it fits the bus mode, and framing keeps what fits. -/
theorem rowWindowCarriesItsBounds : Obligations.RowWindowCarriesItsBounds := by
  intro s hst hwf hy
  obtain ⟨hw, -, -, -, -⟩ := geometry_of_wellFormed hwf
  obtain ⟨hxLt, hxFits⟩ := coordFits_of_wellFormed hwf (v := s.cfg.w - 1) (.inl (by omega))
  obtain ⟨hyLt, hyFits⟩ := coordFits_of_wellFormed hwf (v := s.cfg.ah - 1) (.inr (.inl (by omega)))
  have hstep := (step_of_code hst).trans (stepState_busy rfl s)
  refine ⟨_, _, _, _, _, _, _, hstep, ?_, takePair_coordPair_nil (a := 0) (coordFits_zero s.cfg) hxFits,
    takePair_coordPair_nil (coordFits_row hwf hy) hyFits, rfl, coordOfNat_toNat hxLt, rfl, coordOfNat_toNat hyLt⟩
  rw [stateWrites_trace, emitAll_trace, stateEvents_clrRow, List.append_assoc]

end Sys2Proof.Machine
end

section
/-! The steps of the clear (R103 to R105) and the payload of its pixel tasks (R102). -/

namespace Sys2Proof.Machine

/-- Settles O14: RAMWR emits the events of one whole task. -/
theorem pixelTaskLifecycle : Obligations.PixelTaskLifecycle := fun s =>
  (exec_command (i := .ramwr) rfl s).trans (congrArg Host.Outcome.next (emitAll_pixrow s.cfg s.cs s))

/-! One row (R104). -/

/-- `CLR_ROW` emits the row of the clear that `y` counts. -/
theorem stateEvents_clrRow_eq_clearRow (s : State) : stateEvents .clrRow s = clearRow s.cfg s.cs s.y.toNat := by
  have hy : coordOfNat s.y.toNat = s.y := by simp [coordOfNat]
  rw [stateEvents_clrRow, clearRow, setwin, hy]

/-- A row of the clear leaves its events and no live task. -/
theorem emitAll_clearRow (cfg : Config) (c : Line) (y : Nat) (s : State) :
    emitAll (clearRow cfg c y) s =
      { s with trace := s.trace ++ clearRow cfg c y, taskLive := false, task := none } := by
  have hwindow : ∀ e ∈ setwin cfg c y, writesNothing e = true := by simp [setwin, writesNothing]
  rw [clearRow, emitAll_append, emitAll_writesNothing hwindow, emitAll_pixrow]
  simp

/-- `CLR_ROW` emits its row and then writes its registers. -/
theorem step_clrRow {s : State} (hst : s.st = FsmState.clrRow.code) :
    step s = .next (stateWrites .clrRow s { s with
      trace := s.trace ++ clearRow s.cfg s.cs s.y.toNat, taskLive := false, task := none }) := by
  rw [step_of_code hst, stepState_busy rfl, stateEvents_clrRow_eq_clearRow, emitAll_clearRow]

/-- Settles O16: the row's events are one case, the register writes split at the last row. -/
theorem clearRowStep : Obligations.ClearRowStep := by
  refine ⟨fun s hst hy => ?_, fun s hst hy => ?_⟩
  · rw [step_clrRow hst, List.append_assoc]
    simp only [stateWrites, if_pos hy, clearRow]
  · rw [step_clrRow hst, List.append_assoc]
    simp only [stateWrites, if_neg (Nat.not_lt.mpr hy), clearRow, goto]

/-! The final bounds (R105). -/

/-- The final bounds write no register. -/
theorem emitAll_finalwin (cfg : Config) (c : Line) (s : State) :
    emitAll (finalwin cfg c) s = { s with trace := s.trace ++ finalwin cfg c } :=
  emitAll_writesNothing (by simp [finalwin, writesNothing]) s

/-- Settles O17: the final pair writes no register, and the move is the one `ret` selects. -/
theorem clearFinalStep : Obligations.ClearFinalStep := by
  intro s hst
  have hevents : stateEvents .clrFinal s = finalwin s.cfg s.cs := rfl
  rw [step_of_code hst, stepState_busy rfl, hevents, emitAll_finalwin, ← apply_ite FsmState.code]
  rfl

/-! The payload (R102). -/

/-- The task of `TASK_ALLOC(c, n)`, `TASK_TAG(o)`, `TASK_FILL0`. -/
def filledTask (c : Line) (n : Nat) (o : Byte) : PixelTask := zeroFill (tagTask o (allocTask c n))

theorem emitAll_filledTask (s : State) (c : Line) (n : Nat) (o : Byte) :
    (emitAll [.taskAlloc c n, .taskTag o, .taskFill0] s).task = some (filledTask c n o) := rfl

/-- The filled buffer reads 0x00 below the task's size and has no value from there on. -/
theorem read_filledTask (c : Line) (n : Nat) (o : Byte) (a : Nat) :
    Memory.read (filledTask c n o).buf a = if a < n then some 0x00 else none := by
  have hread : Memory.read (filledTask c n o).buf a = _ := Memory.read_writeRange Memory.wf_nil 0 n a 0x00
  simpa [Memory.read] using hread

/-- Only an allocation, a fill and a release touch a payload: a tag writes the command byte, the rest no task. -/
theorem emit_keepsPayload {e : Event} (halloc : ∀ c n, e ≠ .taskAlloc c n) (hfill : e ≠ .taskFill0)
    (hrelease : e ≠ .taskRelease) (s : State) :
    (emit e s).task.map PixelTask.buf = s.task.map PixelTask.buf := by
  cases e with
  | taskAlloc c n => exact absurd rfl (halloc c n)
  | taskFill0 => exact absurd rfl hfill
  | taskRelease => exact absurd rfl hrelease
  | taskTag o =>
    have htag : (emit (.taskTag o) s).task = s.task.map (tagTask o) := rfl
    rw [htag, Option.map_map]
    rfl
  | gpioSet p | gpioClr p | beginTx c | endTx c => simp
  | _ => rfl

/-- Settles O15: the fill writes the whole range from offset 0. -/
theorem filledPayloadIsAllZero : Obligations.FilledPayloadIsAllZero := by
  refine ⟨fun s c n o => ?_, fun s e halloc hfill hrelease => emit_keepsPayload halloc hfill hrelease s⟩
  have hwf : Memory.wf (filledTask c n o).buf = true := wf_zeroFill Memory.wf_nil
  refine ⟨filledTask c n o, emitAll_filledTask s c n o, rfl, rfl, rfl, rfl, rfl, rfl, hwf, fun a ha => ?_,
    fun a ha => ?_⟩
  · rw [read_filledTask, if_pos ha]
  · rw [read_filledTask, if_neg (Nat.not_lt.mpr ha)]

end Sys2Proof.Machine
end

section
/-! The counts of a clear (R106) and of a de-initialisation (R171), row by row and panel by panel. -/

namespace Sys2Proof.Machine

/-- A list of blocks of one length. -/
theorem length_flatMap_range {α : Type} {f : Nat → List α} {m : Nat} (h : ∀ k, (f k).length = m) (n : Nat) :
    ((List.range n).flatMap f).length = n * m := by
  simp [List.length_flatMap, h]

/-- Blocks of one count. -/
theorem countP_flatMap_range {α : Type} {p : α → Bool} {f : Nat → List α} {m : Nat}
    (h : ∀ k, (f k).countP p = m) (n : Nat) : ((List.range n).flatMap f).countP p = n * m := by
  simp [List.countP_flatMap, Function.comp_def, h]

theorem clear_length (cfg : Config) (c : Line) : (clear cfg c).length = 8 * cfg.ah + 2 := by
  have hrow (y : Nat) : (clearRow cfg c y).length = 8 := rfl
  rw [clear, List.length_append, length_flatMap_range hrow, Nat.mul_comm]
  rfl

theorem clear_countP_isXfer (cfg : Config) (c : Line) : (clear cfg c).countP isXfer = 2 * cfg.ah + 2 := by
  have hrow (y : Nat) : (clearRow cfg c y).countP isXfer = 2 := rfl
  rw [clear, List.countP_append, countP_flatMap_range hrow, Nat.mul_comm]
  rfl

theorem clear_countP_isAlloc (cfg : Config) (c : Line) : (clear cfg c).countP isAlloc = cfg.ah := by
  have hrow (y : Nat) : (clearRow cfg c y).countP isAlloc = 1 := rfl
  rw [clear, List.countP_append, countP_flatMap_range hrow, Nat.mul_one]
  rfl

/-- The events of a clear are those of its rows and of the final bounds. -/
theorem mem_clear {cfg : Config} {c : Line} {e : Event} :
    e ∈ clear cfg c ↔ (∃ y < cfg.ah, e ∈ clearRow cfg c y) ∨ e ∈ finalwin cfg c := by
  simp [clear]

/-- Every task of a clear is one row of the window, on the line cleared (R101). -/
theorem taskAlloc_mem_clear {cfg : Config} {c l : Line} {n : Nat} (h : .taskAlloc l n ∈ clear cfg c) :
    l = c ∧ n = taskSize cfg := by
  rcases mem_clear.mp h with ⟨y, -, hrow⟩ | hfinal
  · simpa [clearRow, setwin, pixrow] using hrow
  · simp [finalwin] at hfinal

theorem isClearEvent_of_mem_clear {cfg : Config} {c : Line} {e : Event} (h : e ∈ clear cfg c) :
    isClearEvent cfg e = true := by
  rcases mem_clear.mp h with ⟨y, -, hrow⟩ | hfinal
  · have hall : ∀ e ∈ clearRow cfg c y, isClearEvent cfg e = true := by
      simp [clearRow, setwin, pixrow, isClearEvent]
    exact hall e hrow
  · have hall : ∀ e ∈ finalwin cfg c, isClearEvent cfg e = true := by simp [finalwin, isClearEvent]
    exact hall e hfinal

/-- Settles O53: each row has eight events, two of them transfers and one an allocation. -/
theorem clearAndDeinitCounts : Obligations.ClearAndDeinitCounts := by
  refine ⟨fun cfg c => ⟨clear_length cfg c, clear_countP_isXfer cfg c, clear_countP_isAlloc cfg c, ?_⟩,
    fun cfg => ⟨length_flatMap_range (fun k => clear_length cfg (csOf cfg k)) cfg.n, fun e he => ?_⟩⟩
  · rintro e he l n rfl
    exact taskAlloc_mem_clear he
  · obtain ⟨k, -, hk⟩ := List.mem_flatMap.mp he
    exact isClearEvent_of_mem_clear hk

end Sys2Proof.Machine
end

section
/-! What the observer of R60 sees of a clear (R107): each row's window is the row, and its task fills it. -/

namespace Sys2Proof.Machine

/-! A window command sets a range of its line. -/

theorem observe_caset {cfg : Config} (hnd : cfg.opc.toList.Nodup) {xs xe : Coord} (hxs : coordFits cfg xs = true)
    (hxe : coordFits cfg xe = true) (c : Line) (o : Observer) :
    observe cfg o (.xfer c cfg.opc.caset (coordPair cfg xs xe)) =
      { o with cols := fun l => if l = c then (xs.toNat, xe.toNat) else o.cols l } := by
  have hdec : decode cfg (.transfer (cfg.opc.caset :: coordPair cfg xs xe)) = .ok (.caset xs xe) :=
    decodeInvertsEncode cfg (.caset xs xe) hnd (by simp [Instr.wf, hxs, hxe])
  simp [observe, hdec]

theorem observe_raset {cfg : Config} (hnd : cfg.opc.toList.Nodup) {ys ye : Coord} (hys : coordFits cfg ys = true)
    (hye : coordFits cfg ye = true) (c : Line) (o : Observer) :
    observe cfg o (.xfer c cfg.opc.raset (coordPair cfg ys ye)) =
      { o with rows := fun l => if l = c then (ys.toNat, ye.toNat) else o.rows l } := by
  have hdec : decode cfg (.transfer (cfg.opc.raset :: coordPair cfg ys ye)) = .ok (.raset ys ye) :=
    decodeInvertsEncode cfg (.raset ys ye) hnd (by simp [Instr.wf, hys, hye])
  simp [observe, hdec]

/-- A transfer writes no cell. -/
@[simp] theorem observe_xfer_writes (cfg : Config) (o : Observer) (c : Line) (op : Byte) (a : List Byte) :
    (observe cfg o (.xfer c op a)).writes = o.writes := by
  simp only [observe]
  split <;> rfl

/-- The window of row y: all columns, and the rows from y on (R92). -/
theorem observeAll_setwin {cfg : Config} (hwf : wellFormed cfg = true) {y : Nat} (hy : y < cfg.ah) (c : Line)
    (o : Observer) : observeAll cfg o (setwin cfg c y) = { o with
      cols := fun l => if l = c then (0, cfg.w - 1) else o.cols l
      rows := fun l => if l = c then (y, cfg.ah - 1) else o.rows l } := by
  obtain ⟨hw, -⟩ := geometry_of_wellFormed hwf
  obtain ⟨hxLt, hxFits⟩ := coordFits_of_wellFormed hwf (v := cfg.w - 1) (.inl (by omega))
  obtain ⟨hyLt, hyFits⟩ := coordFits_of_wellFormed hwf (v := y) (.inr (.inl hy))
  obtain ⟨hendLt, hendFits⟩ := coordFits_of_wellFormed hwf (v := cfg.ah - 1) (.inr (.inl (by omega)))
  have hnd := opcodes_of_wellFormed hwf
  simp [observeAll, setwin, observe_caset hnd, observe_raset hnd, hxFits, hyFits, hendFits,
    coordOfNat_toNat hxLt, coordOfNat_toNat hyLt, coordOfNat_toNat hendLt]

/-! A pixel task writes zero bytes to the cells of its window. -/

/-- The task of PIXROW as the observer holds it when it is executed. -/
def rowTask (cfg : Config) (c : Line) : ObservedTask :=
  { line := c, size := taskSize cfg, ramwr := true, zeroed := true }

/-- The cells of a task depend on its window and the RAM, not on the task the observer follows. -/
@[simp] theorem pixelWrites_setTask (cfg : Config) (o : Observer) (u : Option ObservedTask) (t : ObservedTask) :
    pixelWrites cfg { o with task := u } t = pixelWrites cfg o t := rfl

theorem observeAll_pixrow (cfg : Config) (c : Line) (o : Observer) :
    observeAll cfg o (pixrow cfg c) =
      { o with task := none, writes := (pixelWrites cfg o (rowTask cfg c)).map (·, true) ++ o.writes } := by
  simp [observeAll, pixrow, observe, rowTask]

/-- Raster order over one row of the window. -/
theorem mem_raster_row {c : Line} {w y : Nat} {p : PixelCell} :
    p ∈ raster c 0 w y w ↔ p.line = c ∧ p.x < w ∧ p.y = y := by
  simp only [raster, List.mem_map, List.mem_range]
  constructor
  · rintro ⟨j, hj, rfl⟩
    simp [Nat.mod_eq_of_lt hj, Nat.div_eq_of_lt hj, hj]
  · rintro ⟨rfl, hx, rfl⟩
    exact ⟨p.x, hx, by simp [Nat.mod_eq_of_lt hx, Nat.div_eq_of_lt hx]⟩

/-- With the window of row y set, the task's cells are the row's: none is cut off by the RAM's edge. -/
theorem mem_pixelWrites_row {cfg : Config} (hwf : wellFormed cfg = true) {o : Observer} (hram : cfg.w ≤ o.wRam)
    {c : Line} {y : Nat} (hy : y < cfg.ah) (hcols : o.cols c = (0, cfg.w - 1)) (hrows : (o.rows c).1 = y)
    {p : PixelCell} : p ∈ pixelWrites cfg o (rowTask cfg c) ↔ p.line = c ∧ p.x < cfg.w ∧ p.y = y := by
  obtain ⟨hw, -⟩ := geometry_of_wellFormed hwf
  have hwidth : cfg.w - 1 - 0 + 1 = cfg.w := by omega
  have hcount : taskSize cfg / cfg.bppBytes = cfg.w := Nat.mul_div_cancel _ (bpp_of_wellFormed hwf)
  simp only [pixelWrites, rowTask, hcols, hrows, hwidth, hcount, List.mem_filter, mem_raster_row, inRam,
    decide_eq_true_eq]
  exact and_iff_left_of_imp fun ⟨_, hx, hrow⟩ => ⟨hx.trans_le hram, hrow ▸ hy⟩

/-! Which cells are black. -/

/-- Cells newly written with zero bytes are black, the others as they were. -/
theorem isBlack_iff_of_writes {o o' : Observer} {cells : List PixelCell}
    (h : o'.writes = cells.map (·, true) ++ o.writes) (p : PixelCell) :
    isBlack o' p = true ↔ p ∈ cells ∨ isBlack o p = true := by
  simp only [isBlack, h, List.find?_append, List.find?_map, Function.comp_def]
  cases hfind : cells.find? (fun q => q == p) with
  | some q =>
    obtain rfl : q = p := by simpa using List.find?_some hfind
    simp [List.mem_of_find?_eq_some hfind]
  | none =>
    have hp : p ∉ cells := fun hp => by simpa using List.find?_eq_none.mp hfind p hp
    simp [hp]

/-- A row of the clear blackens its W cells and no other. -/
theorem isBlack_observeAll_clearRow {cfg : Config} (hwf : wellFormed cfg = true) {o : Observer}
    (hram : cfg.w ≤ o.wRam) (c : Line) {y : Nat} (hy : y < cfg.ah) (p : PixelCell) :
    isBlack (observeAll cfg o (clearRow cfg c y)) p = true ↔
      (p.line = c ∧ p.x < cfg.w ∧ p.y = y) ∨ isBlack o p = true := by
  rw [clearRow, observeAll_append, observeAll_setwin hwf hy, observeAll_pixrow, isBlack_iff_of_writes rfl]
  exact or_congr (mem_pixelWrites_row hwf (by exact hram) hy (by simp) (by simp)) Iff.rfl

/-- The rows below m of a clear blacken their cells and no other. -/
theorem isBlack_observeAll_clearRows {cfg : Config} (hwf : wellFormed cfg = true) {o : Observer}
    (hram : cfg.w ≤ o.wRam) (c : Line) {m : Nat} (hm : m ≤ cfg.ah) (p : PixelCell) :
    isBlack (observeAll cfg o ((List.range m).flatMap (clearRow cfg c))) p = true ↔
      (p.line = c ∧ p.x < cfg.w ∧ p.y < m) ∨ isBlack o p = true := by
  induction m with
  | zero => simp [observeAll]
  | succ m ih =>
    have hlast := isBlack_observeAll_clearRow hwf (o := observeAll cfg o ((List.range m).flatMap (clearRow cfg c)))
      (by simpa using hram) c hm p
    rw [List.range_succ, List.flatMap_append, observeAll_append, List.flatMap_singleton, hlast,
      ih (by omega), Nat.lt_succ_iff, le_iff_eq_or_lt, and_or_left, and_or_left, or_assoc]

/-- A clear blackens the W by AH cells of its line and no other: the final bounds write no cell. -/
theorem isBlack_observeAll_clear {cfg : Config} (hwf : wellFormed cfg = true) {o : Observer}
    (hram : cfg.w ≤ o.wRam) (c : Line) (p : PixelCell) :
    isBlack (observeAll cfg o (clear cfg c)) p = true ↔
      (p.line = c ∧ p.x < cfg.w ∧ p.y < cfg.ah) ∨ isBlack o p = true := by
  have hfinal (o : Observer) : (observeAll cfg o (finalwin cfg c)).writes = o.writes := by
    simp [observeAll, finalwin]
  rw [clear, observeAll_append, isBlack, hfinal, ← isBlack, isBlack_observeAll_clearRows hwf hram c le_rfl]

/-- Settles O58: a cell in the window space of the line is black by the clear, and no other cell is touched. -/
theorem clearBlackensTheWholePanel : Obligations.ClearBlackensTheWholePanel := by
  refine fun cfg c o hwf hram => ⟨fun x y hx hy => ?_, fun p hp => ?_⟩
  · exact (isBlack_observeAll_clear hwf hram c _).mpr (.inl ⟨rfl, hx, hy⟩)
  · have houtside : ¬ (p.line = c ∧ p.x < cfg.w ∧ p.y < cfg.ah) := by
      rintro ⟨hline, hx, hy⟩
      exact hp.elim (absurd hline) (Or.rec (Nat.not_le.mpr hx) (Nat.not_le.mpr hy))
    rw [Bool.eq_iff_iff, isBlack_observeAll_clear hwf hram c p, or_iff_right houtside]

end Sys2Proof.Machine
end

section
/-! The steps of the bring-up states (R116 to R131) and the commands they issue (R141 to R152). -/

namespace Sys2Proof.Machine

/-! The commands of the bring-up (R140). -/

theorem commandEvents_writesNothing {i : Instr} (hi : i ≠ .ramwr) (cfg : Config) (c : Line) :
    ∀ e ∈ commandEvents cfg c i, writesNothing e = true := by
  cases i with
  | ramwr => exact absurd rfl hi
  | _ => simp [commandEvents, writesNothing]

/-- A command other than RAMWR appends its events and changes nothing else (R140). -/
theorem exec_appends {i : Instr} (hop : i.isHostOp = false) (hi : i ≠ .ramwr) (s : State) :
    exec i s = .next { s with trace := s.trace ++ commandEvents s.cfg s.cs i } := by
  rw [exec_command hop, emitAll_writesNothing (commandEvents_writesNothing hi _ _)]

/-! The states that issue them. -/

/-- The states between the begin of a panel and its backlight, in their order; each only issues commands. -/
def bringupStates : List FsmState :=
  [.swreset, .slpout, .gamma, .pixfmt, .addrmode, .invert, .partoff, .vscroll, .frmrate, .dispon]

/-- Such a state emits the events of its commands and no others, and RAMWR is none of its commands. -/
theorem stateEvents_bringup {S : FsmState} (hS : S ∈ bringupStates) (s : State) :
    S.quiescent = false ∧ stateEvents S s = (commandsOf S s).flatMap (commandEvents s.cfg s.cs) ∧
      .ramwr ∉ commandsOf S s := by
  cases S with
  | idle | reset | slowclk | pBegin | bklt | clrRow | clrFinal | pEnd | restore | ready | dStart | dNext =>
    exact absurd hS (by decide)
  | _ => exact ⟨rfl, rfl, by simp only [commandsOf]; (repeat' split) <;> simp⟩

/-- A bring-up state appends the events of its commands and then writes its registers. -/
theorem step_bringup {S : FsmState} (hS : S ∈ bringupStates) {s : State} (hst : s.st = S.code) :
    step s = .next (stateWrites S s { s with
      trace := s.trace ++ (commandsOf S s).flatMap (commandEvents s.cfg s.cs) }) := by
  obtain ⟨hq, hevents, hramwr⟩ := stateEvents_bringup hS s
  have hnothing : ∀ e ∈ (commandsOf S s).flatMap (commandEvents s.cfg s.cs), writesNothing e = true := by
    intro e he
    obtain ⟨i, hi, hei⟩ := List.mem_flatMap.mp he
    exact commandEvents_writesNothing (fun h => hramwr (h ▸ hi)) _ _ e hei
  rw [step_of_code hst, stepState_busy hq, hevents, emitAll_writesNothing hnothing]

/-- Settles O5: the flag decides whether the state issues its command. -/
theorem softwareReset : Obligations.SoftwareReset := by
  refine ⟨exec_appends (i := .swreset) rfl (by decide), fun s hst hf => ?_, fun s hst hf => ?_, rfl⟩ <;>
    rw [step_bringup (S := .swreset) (by decide) hst] <;>
    simp [commandsOf, hf, commandEvents, stateWrites, goto]

/-- Settles O6: each of the three states always issues its one command. -/
theorem commandsWithADelayOnly : Obligations.CommandsWithADelayOnly :=
  ⟨exec_appends (i := .slpout) rfl (by decide), exec_appends (i := .noron) rfl (by decide),
    exec_appends (i := .dispon) rfl (by decide), fun _ hst => step_bringup (S := .slpout) (by decide) hst,
    fun _ hst => step_bringup (S := .partoff) (by decide) hst,
    fun _ hst => step_bringup (S := .dispon) (by decide) hst, rfl, rfl, rfl⟩

/-- Settles O7: `F_GAMMA_ENABLE` is read before the other flag. -/
theorem gammaStep : Obligations.GammaStep := by
  refine ⟨fun s b => exec_appends (i := .gamset b) rfl nofun s, fun s b => exec_appends (i := .dgmen b) rfl nofun s,
    fun s hst hg => ?_, fun s hst hg hn => ?_, fun s hst hg hn => ?_⟩ <;>
    rw [step_bringup (S := .gamma) (by decide) hst]
  · simp [commandsOf, hg, commandEvents, stateWrites, goto]
  · simp [commandsOf, hg, hn, commandEvents, stateWrites, goto]
  · simp [commandsOf, hg, hn, stateWrites, goto]

/-- Settles O8: the state issues the command with the configured byte. -/
theorem pixelFormat : Obligations.PixelFormat :=
  ⟨fun s b => exec_appends (i := .colmod b) rfl nofun s,
    fun _ hst => step_bringup (S := .pixfmt) (by decide) hst, rfl⟩

/-- Settles O9: the state computes the value once, for the command and for the register. -/
theorem addressMode : Obligations.AddressMode :=
  ⟨fun s m => exec_appends (i := .madctl m) rfl nofun s,
    fun _ hst => step_bringup (S := .addrmode) (by decide) hst, rfl⟩

/-- Settles O10: `invEffective` selects the one command the state issues. -/
theorem inversionStep : Obligations.InversionStep := by
  refine ⟨exec_appends (i := .invon) rfl (by decide), exec_appends (i := .invoff) rfl (by decide),
    fun s hst => ?_⟩
  rw [step_bringup (S := .invert) (by decide) hst]
  cases hinv : invEffective s.cfg <;> simp [commandsOf, hinv, commandEvents, stateWrites, goto]

/-- Settles O11: the three conditions are those of `vscrollOn`. -/
theorem verticalScroll : Obligations.VerticalScroll := by
  refine ⟨fun s off => exec_appends (i := .vscrsadd off) rfl nofun s, fun s hst hf hmy hlt => ?_,
    fun s hst hoff => ?_⟩ <;>
    rw [step_bringup (S := .vscroll) (by decide) hst]
  · have hon : vscrollOn s.cfg s.madctl = true := by simpa [vscrollOn, hf, hlt] using hmy
    simp [commandsOf, hon, commandEvents, stateWrites, goto]
  · have hnot : vscrollOn s.cfg s.madctl = false := by
      rcases hoff with h | h | h <;> simp [vscrollOn, h]
    simp [commandsOf, hnot, stateWrites, goto]

/-- Settles O12: the flag decides whether the state issues its command. -/
theorem frameRate : Obligations.FrameRate := by
  refine ⟨fun s args => exec_appends (i := .frmctr1 args) rfl nofun s, fun s hst hf => ?_, fun s hst hf => ?_⟩ <;>
    rw [step_bringup (S := .frmrate) (by decide) hst] <;>
    simp [commandsOf, hf, commandEvents, stateWrites, goto]

/-! The states that write the clock, the pins and the bracket (R116 to R118, R129 to R131). -/

/-- A busy state emits its events and then writes its registers. -/
theorem step_busy_of_code {S : FsmState} {s : State} (hst : s.st = S.code) (hS : S.quiescent = false) :
    step s = .next (stateWrites S s (emitAll (stateEvents S s) s)) := by
  rw [step_of_code hst, stepState_busy hS]

/-- Settles O19: of the pulse's level events the last one leaves the pin high. -/
theorem resetPulse : Obligations.ResetPulse := by
  refine ⟨fun s p hst hp => ?_, fun s hst hp => ?_⟩ <;> rw [step_busy_of_code (S := .reset) hst rfl]
  · have hevents : stateEvents .reset s = rstpulse s.cfg p := by simp [stateEvents, resetEvents, hp]
    rw [hevents]
    by_cases hb : s.cfg.backlightPin = some p <;> simp [rstpulse, emitAll, stateWrites, goto, hb]
  · have hevents : stateEvents .reset s = [] := by simp [stateEvents, resetEvents, hp]
    rw [hevents]
    rfl

/-- Settles O20: the divisor event writes the clock shadow, the state the panel registers. -/
theorem slowClock : Obligations.SlowClock := by
  intro s hst
  rw [step_busy_of_code (S := .slowclk) hst rfl]
  simp [stateEvents, emitAll, stateWrites, goto]

/-- Settles O21: the state's one event writes the bracket shadow of its line. -/
theorem panelBegin : Obligations.PanelBegin := by
  intro s hst
  rw [step_busy_of_code (S := .pBegin) hst rfl]
  simp [stateEvents, emitAll, stateWrites, goto]

/-- Settles O22: the set event is on the backlight pin, so it writes `bl`. -/
theorem backlightStep : Obligations.BacklightStep := by
  refine ⟨fun s p hst hp => ?_, fun s hst hp => ?_⟩ <;> rw [step_busy_of_code (S := .bklt) hst rfl] <;>
    simp [stateEvents, backlightEvents, hp, emitAll, stateWrites, goto]

/-- Settles O23: the transfer mode decides on the end of the bracket, the panel count on the move. -/
theorem panelEnd : Obligations.PanelEnd := by
  intro s hst
  rw [step_busy_of_code (S := .pEnd) hst rfl]
  cases hd : s.cfg.dmaQueued <;> by_cases hk : s.k.toNat + 1 < s.cfg.n <;>
    simp [stateEvents, endEvents, hd, hk, emitAll, stateWrites, goto, line_eq_one_iff]

/-- Settles O24: the divisor event writes the clock shadow, and no event follows it. -/
theorem restoreClock : Obligations.RestoreClock := by
  intro s hst
  rw [step_busy_of_code (S := .restore) hst rfl]
  simp [stateEvents, emitAll, stateWrites, goto]

end Sys2Proof.Machine
end

section
/-! The panel block of an Init (R132, R134): its length, its line, and how often each command stands in it. -/

namespace Sys2Proof.Machine

/-! The conditional parts of a block. -/

@[simp] theorem length_whenOn (b : Bool) (l : List Event) : (whenOn b l).length = b.toNat * l.length := by
  cases b <;> simp [whenOn]

theorem backlightEvents_length (cfg : Config) :
    (backlightEvents cfg).length = 2 * cfg.backlightPin.isSome.toNat := by
  cases hp : cfg.backlightPin <;> simp [backlightEvents, hp]

/-! The commands of a panel. -/

/-- The commands of `PANEL` before its clear (R132). -/
def panelInstrs (cfg : Config) : List Instr :=
  List.flatten [
    if cfg.fNoSwreset then [] else [.swreset],
    [.slpout],
    if cfg.fGammaEnable then [.dgmen cfg.argDgmen]
      else if cfg.fNoGamsetFrmctr then [] else [.gamset cfg.argGamset],
    [.colmod cfg.argColmod, .madctl (computeMadctl cfg)],
    if invEffective cfg then [.invon] else [.invoff],
    [.noron],
    if vscrollOn cfg (computeMadctl cfg) then [.vscrsadd (coordOfNat (cfg.ah - cfg.w))] else [],
    if cfg.fNoGamsetFrmctr then [] else [.frmctr1 cfg.argFrmctr1],
    [.dispon]]

/-- A command left out under a flag. -/
theorem flatMap_unless (b : Bool) (i : Instr) (f : Instr → List Event) :
    (if b then [] else [i]).flatMap f = whenOn (!b) (f i) := by
  cases b <;> simp [whenOn]

/-- A command issued under a condition. -/
theorem flatMap_when (b : Bool) (i : Instr) (f : Instr → List Event) :
    (if b then [i] else []).flatMap f = whenOn b (f i) := by
  cases b <;> simp [whenOn]

/-- The gamma command: one of two, or none (R121). -/
theorem flatMap_gamma (b n : Bool) (i j : Instr) (f : Instr → List Event) :
    (if b then [i] else if n then [] else [j]).flatMap f = whenOn b (f i) ++ whenOn (!b && !n) (f j) := by
  cases b <;> cases n <;> simp [whenOn]

/-- `PANEL` up to its clear is the begin of the bracket and then its commands. -/
theorem panelCommands_eq (cfg : Config) (c : Line) :
    panelCommands cfg c = .beginTx c :: (panelInstrs cfg).flatMap (commandEvents cfg c) := by
  simp only [panelInstrs, List.flatten_cons, List.flatten_nil, List.flatMap_append, flatMap_unless, flatMap_when,
    flatMap_gamma]
  cases hinv : invEffective cfg <;> simp [panelCommands, commandEvents, hinv]

/-- The block of a panel: its bracket around its commands, the backlight and the clear (R132). -/
theorem panel_eq (cfg : Config) (c : Line) :
    panel cfg c = .beginTx c :: (panelInstrs cfg).flatMap (commandEvents cfg c) ++ backlightEvents cfg ++
      clear cfg c ++ endEvents cfg c := by
  have hend : whenOn (!cfg.dmaQueued) [.endTx c] = endEvents cfg c := by
    cases hd : cfg.dmaQueued <;> simp [whenOn, endEvents, hd]
  rw [panel, panelCommands_eq, hend]

/-! Its length and its line. -/

theorem panelCommands_length (cfg : Config) (c : Line) :
    (panelCommands cfg c).length =
      1 + 2 * (!cfg.fNoSwreset).toNat + 2 + (cfg.fGammaEnable || !cfg.fNoGamsetFrmctr).toNat + 2 + 2 + 1 + 2
        + (vscrollOn cfg (computeMadctl cfg)).toNat + (!cfg.fNoGamsetFrmctr).toNat + 2 := by
  have hgamma : cfg.fGammaEnable.toNat + (!cfg.fGammaEnable && !cfg.fNoGamsetFrmctr).toNat =
      (cfg.fGammaEnable || !cfg.fNoGamsetFrmctr).toNat := by
    cases cfg.fGammaEnable <;> simp
  have hinvert : (if invEffective cfg then [Event.xfer c cfg.opc.invon []] else [.xfer c cfg.opc.invoff []]).length =
      1 := by
    split <;> rfl
  simp only [panelCommands, List.length_append, length_whenOn, hinvert, List.length_cons, List.length_nil, ← hgamma]
  omega

theorem commandEvents_line {cfg : Config} {c : Line} {i : Instr} {e : Event} (h : e ∈ commandEvents cfg c i) :
    eventLine e = none ∨ eventLine e = some c := by
  rcases commandEvents_cases h with ⟨o, a, rfl, -⟩ | ⟨t, rfl⟩ | hpix
  · exact .inr rfl
  · exact .inl rfl
  · have hall : ∀ e ∈ pixrow cfg c, eventLine e = none ∨ eventLine e = some c := by simp [pixrow, eventLine]
    exact hall e hpix

/-- The events of a clear are commands on its line: the window pairs and the pixel tasks (R106). -/
theorem exists_command_of_mem_clear {cfg : Config} {c : Line} {e : Event} (h : e ∈ clear cfg c) :
    ∃ i : Instr, e ∈ commandEvents cfg c i ∧ (i.cmd = some .caset ∨ i.cmd = some .raset ∨ i.cmd = some .ramwr) := by
  rcases mem_clear.mp h with ⟨y, -, hrow⟩ | hfinal
  · simp only [clearRow, setwin, List.mem_append, List.mem_pair] at hrow
    obtain (rfl | rfl) | hpix := hrow
    · exact ⟨.caset 0 _, List.mem_singleton_self _, .inl rfl⟩
    · exact ⟨.raset _ _, List.mem_singleton_self _, .inr (.inl rfl)⟩
    · exact ⟨.ramwr, hpix, .inr (.inr rfl)⟩
  · obtain rfl | rfl := List.mem_pair.mp hfinal
    · exact ⟨.caset 0 _, List.mem_singleton_self _, .inl rfl⟩
    · exact ⟨.raset 0 _, List.mem_singleton_self _, .inr (.inl rfl)⟩

/-- Every event of a block is its bracket's, of one of its commands, or of the backlight. -/
theorem mem_panel {cfg : Config} {c : Line} {e : Event} (h : e ∈ panel cfg c) :
    e = .beginTx c ∨ e = .endTx c ∨ (∃ i, e ∈ commandEvents cfg c i) ∨ e ∈ backlightEvents cfg := by
  simp only [panel_eq, List.mem_append, List.mem_cons, List.mem_flatMap, or_assoc] at h
  obtain hbegin | ⟨i, -, hi⟩ | hbl | hclear | hend := h
  · exact .inl hbegin
  · exact .inr (.inr (.inl ⟨i, hi⟩))
  · exact .inr (.inr (.inr hbl))
  · obtain ⟨i, hi, -⟩ := exists_command_of_mem_clear hclear
    exact .inr (.inr (.inl ⟨i, hi⟩))
  · unfold endEvents at hend
    split at hend
    · cases hend
    · exact .inr (.inl (List.mem_singleton.mp hend))

/-- A backlight event only drives a pin. -/
theorem mem_backlightEvents {cfg : Config} {e : Event} (h : e ∈ backlightEvents cfg) :
    ∃ p, e = .gpioMode p ∨ e = .gpioSet p := by
  unfold backlightEvents at h
  split at h
  · exact ⟨_, List.mem_pair.mp h⟩
  · cases h

/-- Settles O54: the length part by part, the line event by event. -/
theorem panelBlockCountAndLine : Obligations.PanelBlockCountAndLine := by
  refine fun cfg c => ⟨?_, fun e he => ?_⟩
  · simp only [panel, List.length_append, panelCommands_length, backlightEvents_length, clear_length, length_whenOn,
      List.length_singleton, Nat.mul_one]
  · obtain rfl | rfl | ⟨i, hi⟩ | hbl := mem_panel he
    · exact .inr rfl
    · exact .inr rfl
    · exact commandEvents_line hi
    · obtain ⟨p, rfl | rfl⟩ := mem_backlightEvents hbl <;> exact .inl rfl

/-! How often a command stands in a block. -/

theorem opcode_eq_iff {cfg : Config} (hnd : cfg.opc.toList.Nodup) {a b : Cmd} :
    a.opcode cfg = b.opcode cfg ↔ a = b :=
  ⟨fun h => Option.some.inj (by rw [← cmdOfByte_opcode hnd a, h, cmdOfByte_opcode hnd b]), congrArg _⟩

/-- A command other than RAMWR is one transfer with its opcode, then delays. -/
theorem commandEvents_eq_xfer {i : Instr} {cmd : Cmd} (hi : i.cmd = some cmd) (hramwr : cmd ≠ .ramwr) (cfg : Config)
    (c : Line) : ∃ args rest, commandEvents cfg c i = .xfer c (cmd.opcode cfg) args :: rest ∧
      ∀ e ∈ rest, ∃ t, e = .delay t := by
  cases i with
  | opInit | opDisplayOn | opDisplayOff | opDeinit => cases hi
  | ramwr => exact absurd (Option.some.inj hi).symm hramwr
  | _ => cases hi; exact ⟨_, _, rfl, by simp⟩

/-- A command is counted by its own opcode and by no other. -/
theorem commandEvents_countP_isXferOf {cfg : Config} (hnd : cfg.opc.toList.Nodup) {cmd : Cmd} (hcmd : cmd ≠ .ramwr)
    (c : Line) (i : Instr) :
    (commandEvents cfg c i).countP (isXferOf (cmd.opcode cfg)) = if i.cmd = some cmd then 1 else 0 := by
  cases hi : i.cmd with
  | none =>
    obtain ⟨code, rfl⟩ := exists_code_of_cmd_eq_none hi
    rcases code_cases code with rfl | rfl | rfl | rfl <;> rfl
  | some a =>
    by_cases ha : a = .ramwr
    · subst ha
      cases i with
      | ramwr => simp [commandEvents, pixrow, isXferOf, hcmd.symm]
      | _ => cases hi
    · obtain ⟨args, rest, hevents, hrest⟩ := commandEvents_eq_xfer hi ha cfg c
      have hdelays : rest.countP (isXferOf (cmd.opcode cfg)) = 0 := by
        refine List.countP_eq_zero.mpr fun e he => ?_
        obtain ⟨t, rfl⟩ := hrest e he
        exact Bool.false_ne_true
      simp [hevents, List.countP_cons, isXferOf, hdelays, opcode_eq_iff hnd]

theorem commandEvents_countP_isBegin (cfg : Config) (c : Line) (i : Instr) :
    (commandEvents cfg c i).countP isBegin = 0 := by
  cases i <;> simp [commandEvents, pixrow, isBegin]

/-- The transfers of a list of commands with an opcode are as many as the commands with it. -/
theorem flatMap_commandEvents_countP {cfg : Config} (hnd : cfg.opc.toList.Nodup) {cmd : Cmd} (hcmd : cmd ≠ .ramwr)
    (c : Line) (l : List Instr) :
    (l.flatMap (commandEvents cfg c)).countP (isXferOf (cmd.opcode cfg)) =
      l.countP (fun i => i.cmd = some cmd) := by
  induction l with
  | nil => rfl
  | cons i l ih =>
    simp [List.countP_cons, commandEvents_countP_isXferOf hnd hcmd, ih, Nat.add_comm]

/-- The commands that a block sends once, whatever the variant (R132). -/
def everyPanelCmds : List Cmd := [.slpout, .colmod, .madctl, .noron, .dispon]

theorem panelInstrs_countP {cmd : Cmd} (hcmd : cmd ∈ everyPanelCmds) (cfg : Config) :
    (panelInstrs cfg).countP (fun i => i.cmd = some cmd) = 1 := by
  simp only [everyPanelCmds, List.mem_cons, List.not_mem_nil, or_false] at hcmd
  rcases hcmd with rfl | rfl | rfl | rfl | rfl <;>
    simp [panelInstrs, apply_ite (List.countP _), Instr.cmd]

theorem backlightEvents_line {cfg : Config} {e : Event} (h : e ∈ backlightEvents cfg) : eventLine e = none := by
  obtain ⟨p, rfl | rfl⟩ := mem_backlightEvents h <;> rfl

/-- An event of the reset pulse only drives a pin or waits. -/
theorem mem_resetEvents {cfg : Config} {e : Event} (h : e ∈ resetEvents cfg) :
    (∃ p, e = .gpioMode p ∨ e = .gpioSet p ∨ e = .gpioClr p) ∨ ∃ t, e = .delay t := by
  unfold resetEvents at h
  split at h
  · simp only [rstpulse, List.mem_cons, List.not_mem_nil, or_false] at h
    obtain rfl | rfl | rfl | rfl | rfl | rfl | rfl := h <;> simp
  · cases h

theorem resetEvents_line {cfg : Config} {e : Event} (h : e ∈ resetEvents cfg) : eventLine e = none := by
  obtain ⟨p, rfl | rfl | rfl⟩ | ⟨t, rfl⟩ := mem_resetEvents h <;> rfl

/-- A property of events on a line holds of none of a list without a line. -/
theorem countP_eq_zero_of_no_line {p : Event → Bool} (hp : ∀ e, eventLine e = none → p e = false) {l : List Event}
    (hl : ∀ e ∈ l, eventLine e = none) : l.countP p = 0 :=
  List.countP_eq_zero.mpr fun e he => by simp [hp e (hl e he)]

theorem isXferOf_eq_false_of_no_line (o : Byte) : ∀ e, eventLine e = none → isXferOf o e = false := by
  intro e h
  cases e with
  | xfer c o a => cases h
  | _ => rfl

theorem isBegin_eq_false_of_no_line : ∀ e, eventLine e = none → isBegin e = false := by
  intro e h
  cases e with
  | beginTx c => cases h
  | _ => rfl

theorem clear_countP_isXferOf {cfg : Config} (hnd : cfg.opc.toList.Nodup) {cmd : Cmd} (hcmd : cmd ∈ everyPanelCmds)
    (c : Line) : (clear cfg c).countP (isXferOf (cmd.opcode cfg)) = 0 := by
  refine List.countP_eq_zero.mpr fun e he => ?_
  obtain ⟨i, hei, hi⟩ := exists_command_of_mem_clear he
  have hother : i.cmd ≠ some cmd := by
    rintro h
    rw [h] at hi
    simp only [Option.some.injEq] at hi
    rcases hi with rfl | rfl | rfl <;> exact absurd hcmd (by decide)
  have hramwr : cmd ≠ .ramwr := fun h => absurd (h ▸ hcmd) (by decide)
  have hzero := commandEvents_countP_isXferOf hnd hramwr c i
  rw [if_neg hother] at hzero
  exact List.countP_eq_zero.mp hzero e hei

theorem panel_countP_isXferOf {cfg : Config} (hnd : cfg.opc.toList.Nodup) {cmd : Cmd} (hcmd : cmd ∈ everyPanelCmds)
    (c : Line) : (panel cfg c).countP (isXferOf (cmd.opcode cfg)) = 1 := by
  have hramwr : cmd ≠ .ramwr := fun h => absurd (h ▸ hcmd) (by decide)
  have hbl := countP_eq_zero_of_no_line (isXferOf_eq_false_of_no_line (cmd.opcode cfg))
    (fun _ he => backlightEvents_line (cfg := cfg) he)
  have hend : (endEvents cfg c).countP (isXferOf (cmd.opcode cfg)) = 0 := by
    unfold endEvents
    split <;> rfl
  simp [panel_eq, isXferOf, flatMap_commandEvents_countP hnd hramwr, panelInstrs_countP hcmd, hbl, hend,
    clear_countP_isXferOf hnd hcmd]

theorem panel_countP_isBegin (cfg : Config) (c : Line) : (panel cfg c).countP isBegin = 1 := by
  have hcommands : ((panelInstrs cfg).flatMap (commandEvents cfg c)).countP isBegin = 0 := by
    simp [List.countP_flatMap, Function.comp_def, commandEvents_countP_isBegin]
  have hbl := countP_eq_zero_of_no_line isBegin_eq_false_of_no_line
    (fun _ he => backlightEvents_line (cfg := cfg) he)
  have hclear : (clear cfg c).countP isBegin = 0 := by
    refine List.countP_eq_zero.mpr fun e he => ?_
    obtain ⟨i, hei, -⟩ := exists_command_of_mem_clear he
    exact List.countP_eq_zero.mp (commandEvents_countP_isBegin cfg c i) e hei
  have hend : (endEvents cfg c).countP isBegin = 0 := by
    unfold endEvents
    split <;> rfl
  simp [panel_eq, List.countP_cons, isBegin, hcommands, hbl, hclear, hend]

/-! The whole Init. -/

/-- Events on a line stand in an Init only in its N blocks. -/
theorem initTrace_countP {cfg : Config} {p : Event → Bool} (hp : ∀ e, eventLine e = none → p e = false) {m : Nat}
    (hm : ∀ c, (panel cfg c).countP p = m) : (initTrace cfg).countP p = cfg.n * m := by
  have hreset := countP_eq_zero_of_no_line hp (fun _ he => resetEvents_line (cfg := cfg) he)
  have hpanels := countP_flatMap_range (fun k => hm (csOf cfg k)) cfg.n
  have hslow : [Event.clkdiv cfg.slowDiv, .barrier].countP p = 0 :=
    countP_eq_zero_of_no_line hp (by simp [eventLine])
  have hrestore : [Event.delay cfg.t.settle, .clkdiv cfg.targetDiv].countP p = 0 :=
    countP_eq_zero_of_no_line hp (by simp [eventLine])
  simp only [initTrace, List.countP_append, hreset, hslow, hpanels, hrestore, Nat.zero_add, Nat.add_zero]

theorem initTrace_countP_isXferOf {cfg : Config} (hnd : cfg.opc.toList.Nodup) {cmd : Cmd}
    (hcmd : cmd ∈ everyPanelCmds) : (initTrace cfg).countP (isXferOf (cmd.opcode cfg)) = cfg.n := by
  rw [initTrace_countP (isXferOf_eq_false_of_no_line _) (panel_countP_isXferOf hnd hcmd), Nat.mul_one]

/-- The clock is written before the panels and after them. -/
theorem initTrace_countP_isClkdiv (cfg : Config) : (initTrace cfg).countP isClkdiv = 2 := by
  have hzero {l : List Event} (h : l.any isClkdiv = false) : l.countP isClkdiv = 0 :=
    List.countP_eq_zero.mpr (by simpa using h)
  simp [initTrace_eq_append_restore, initBeforeRestore, List.countP_cons, isClkdiv,
    hzero (resetEvents_any_isClkdiv cfg), hzero (initBody_any_isClkdiv cfg)]

/-- A block holds no barrier. -/
theorem ne_barrier_of_mem_panel {cfg : Config} {c : Line} {e : Event} (h : e ∈ panel cfg c) : e ≠ .barrier := by
  obtain rfl | rfl | ⟨i, hi⟩ | hbl := mem_panel h
  · exact nofun
  · exact nofun
  · have hall : ∀ e ∈ commandEvents cfg c i, e ≠ .barrier := by cases i <;> simp [commandEvents, pixrow]
    exact hall e hi
  · obtain ⟨p, rfl | rfl⟩ := mem_backlightEvents hbl <;> exact nofun

/-- Settles O55: each count block by block; the pulse before the first divisor write is of pin events and delays. -/
theorem initRepeatsThePanelBlock : Obligations.InitRepeatsThePanelBlock := by
  refine ⟨fun cfg hnd => ⟨?_, initTrace_countP_isXferOf (cmd := .slpout) hnd (by decide),
    initTrace_countP_isXferOf (cmd := .colmod) hnd (by decide),
    initTrace_countP_isXferOf (cmd := .madctl) hnd (by decide),
    initTrace_countP_isXferOf (cmd := .noron) hnd (by decide),
    initTrace_countP_isXferOf (cmd := .dispon) hnd (by decide)⟩, fun cfg => ⟨initTrace_countP_isClkdiv cfg,
      resetEvents cfg, initBody cfg, initTrace_eq_append_restore cfg, rfl, fun e he => ?_, fun e he => ?_⟩⟩
  · rw [initTrace_countP isBegin_eq_false_of_no_line (panel_countP_isBegin cfg), Nat.mul_one]
  · obtain ⟨p, rfl | rfl | rfl⟩ | ⟨t, rfl⟩ := mem_resetEvents he <;> exact ⟨nofun, rfl⟩
  · rcases List.mem_append.mp he with hpanels | hsettle
    · obtain ⟨k, -, hk⟩ := List.mem_flatMap.mp hpanels
      exact ne_barrier_of_mem_panel hk
    · rw [List.mem_singleton.mp hsettle]
      exact nofun

end Sys2Proof.Machine
end

section
/-! A whole Init (R132, R136): from the acceptance of the operation, through each panel, to READY. -/

namespace Sys2Proof.Machine

theorem runSteps_next {s t : State} (h : step s = .next t) (n : Nat) : runSteps (n + 1) s = runSteps n t := by
  rw [runSteps_succ, h, andThen_next]

/-- The states that issue the commands of a panel, from SWRESET to BKLT (R119 to R128). -/
theorem run_bringup {s : State} (hst : s.st = FsmState.swreset.code) :
    runSteps 10 s = .next { s with
      st := FsmState.bklt.code
      madctl := computeMadctl s.cfg
      inv := invEffective s.cfg
      trace := s.trace ++ (panelInstrs s.cfg).flatMap (commandEvents s.cfg s.cs) } := by
  rw [runSteps_next (step_bringup (S := .swreset) (by decide) hst),
    runSteps_next (step_bringup (S := .slpout) (by decide) rfl),
    runSteps_next (step_bringup (S := .gamma) (by decide) rfl),
    runSteps_next (step_bringup (S := .pixfmt) (by decide) rfl),
    runSteps_next (step_bringup (S := .addrmode) (by decide) rfl),
    runSteps_next (step_bringup (S := .invert) (by decide) rfl),
    runSteps_next (step_bringup (S := .partoff) (by decide) rfl),
    runSteps_next (step_bringup (S := .vscroll) (by decide) rfl),
    runSteps_next (step_bringup (S := .frmrate) (by decide) rfl),
    runSteps_next (step_bringup (S := .dispon) (by decide) rfl), runSteps_zero]
  simp [stateWrites, goto, panelInstrs, commandsOf]

/-! The clear (R104 to R106). -/

/-- The rows from `y` to the last one. -/
theorem run_clearRows (m : Nat) {s : State} (hwf : wellFormed s.cfg = true) (hst : s.st = FsmState.clrRow.code)
    (hy : s.y.toNat + (m + 1) = s.cfg.ah) :
    runSteps (m + 1) s = .next { s with
      st := FsmState.clrFinal.code
      y := coordOfNat (s.cfg.ah - 1)
      taskLive := false
      task := none
      trace := s.trace ++ (List.range' s.y.toNat (m + 1)).flatMap (clearRow s.cfg s.cs) } := by
  induction m generalizing s with
  | zero =>
    have hlast : coordOfNat (s.cfg.ah - 1) = s.y := by simp [coordOfNat, ← hy]
    rw [runSteps_next (clearRowStep.2 s hst hy.ge), runSteps_zero, hlast]
    simp [clearRow]
  | succ m ih =>
    have hmore : s.y.toNat + 1 < s.cfg.ah := by omega
    have hsucc := succ_toNat_of_lt_ah hwf hmore
    rw [runSteps_next (clearRowStep.1 s hst hmore), ih]
    · simp only [hsucc, List.range'_succ, List.flatMap_cons, clearRow, List.append_assoc]
    · exact hwf
    · exact hst
    · simp only [hsucc]
      omega

/-- A clear, started at row 0, ends where `ret` says (R31). -/
theorem run_clear {s : State} (hwf : wellFormed s.cfg = true) (hst : s.st = FsmState.clrRow.code) (hy : s.y = 0) :
    runSteps (s.cfg.ah + 1) s = .next { s with
      st := if s.ret = 0 then FsmState.pEnd.code else FsmState.dNext.code
      y := coordOfNat (s.cfg.ah - 1)
      taskLive := false
      task := none
      trace := s.trace ++ clear s.cfg s.cs } := by
  obtain ⟨-, -, hh, hah, -⟩ := geometry_of_wellFormed hwf
  obtain ⟨m, hm⟩ : ∃ m, s.cfg.ah = m + 1 := ⟨s.cfg.ah - 1, by omega⟩
  have hrows := run_clearRows m hwf hst (by simp [hy, hm])
  rw [← hm] at hrows
  rw [runSteps_add hrows (runSteps_one (clearFinalStep _ rfl))]
  simp [clear, finalwin, coordPair, hy, ← List.range_eq_range']

/-! One panel (R132). -/

/-- BKLT, with a backlight pin or without (R129). -/
theorem step_bklt {s : State} (hst : s.st = FsmState.bklt.code) : step s = .next { s with
    st := FsmState.clrRow.code
    y := 0
    ret := 0
    bl := if s.cfg.backlightPin.isSome then .high else s.bl
    trace := s.trace ++ backlightEvents s.cfg } := by
  obtain ⟨hpin, hnone⟩ := backlightStep
  cases hp : s.cfg.backlightPin with
  | none => simp [hnone s hst hp, backlightEvents, hp]
  | some p => simp [hpin s p hst hp, backlightEvents, hp]

/-- The state in which a panel that started in P_BEGIN begins its clear. -/
def clearDue (s : State) : State := { s with
  st := FsmState.clrRow.code
  y := 0
  madctl := computeMadctl s.cfg
  inv := invEffective s.cfg
  ret := 0
  open0 := if s.cs = 0 then true else s.open0
  open1 := if s.cs = 0 then s.open1 else true
  bl := if s.cfg.backlightPin.isSome then .high else s.bl
  trace := s.trace ++ panelCommands s.cfg s.cs ++ backlightEvents s.cfg }

theorem run_clearDue {s : State} (hst : s.st = FsmState.pBegin.code) : runSteps 12 s = .next (clearDue s) := by
  rw [runSteps_next (panelBegin s hst), runSteps_add (run_bringup rfl) (runSteps_one (step_bklt rfl))]
  simp [clearDue, panelCommands_eq]

/-- The state after a panel that started in P_BEGIN. -/
def afterPanel (s : State) : State := { s with
  k := s.k + 1
  cs := if s.k.toNat + 1 < s.cfg.n then csOf s.cfg (s.k.toNat + 1) else s.cs
  st := if s.k.toNat + 1 < s.cfg.n then FsmState.pBegin.code else FsmState.restore.code
  y := coordOfNat (s.cfg.ah - 1)
  madctl := computeMadctl s.cfg
  inv := invEffective s.cfg
  ret := 0
  taskLive := false
  task := none
  open0 := if s.cs = 0 then s.cfg.dmaQueued else s.open0
  open1 := if s.cs = 1 then s.cfg.dmaQueued else s.open1
  bl := if s.cfg.backlightPin.isSome then .high else s.bl
  trace := s.trace ++ panel s.cfg s.cs }

theorem line_cases (c : Line) : c = 0 ∨ c = 1 := by revert c; decide

theorem run_panel {s : State} (hwf : wellFormed s.cfg = true) (hst : s.st = FsmState.pBegin.code) :
    runSteps (14 + s.cfg.ah) s = .next (afterPanel s) := by
  have hrun := runSteps_add (runSteps_add (run_clearDue hst) (run_clear (s := clearDue s) hwf rfl rfl))
    (runSteps_one (panelEnd _ rfl))
  have hcount : 14 + s.cfg.ah = 12 + (s.cfg.ah + 1) + 1 := by omega
  rw [hcount]
  refine hrun.trans ?_
  rcases line_cases s.cs with hc | hc <;> cases hd : s.cfg.dmaQueued <;>
    simp [clearDue, afterPanel, panel, whenOn, hc, hd]

/-! The whole operation (R166). -/

/-- OP_INIT is accepted under a well-formed configuration (R165, R166). -/
theorem step_opInit {s : State} {rest : List (BitVec 2)} (hq : isQuiescent s = true) (hwf : wellFormed s.cfg = true)
    (hops : s.hostOps = 0 :: rest) : step s = .next { s with hostOps := rest, st := FsmState.reset.code } := by
  have hpasses : firstFailedCheck s.cfg = none := (firstFailedCheck_eq_none_iff s.cfg).mpr hwf
  have hstep : step s = stepQuiescent s := by
    obtain hst | hst := isQuiescent_iff.mp hq <;> exact step_of_code hst
  rw [hstep, stepQuiescent, hops]
  exact dispatch_accepted (body := goto .reset) (s := { s with hostOps := rest }) hq hpasses

/-- RESET, with a reset pin or without: the pin is not the backlight pin, so no register but `st` changes (R116). -/
theorem step_reset {s : State} (hwf : wellFormed s.cfg = true) (hst : s.st = FsmState.reset.code) :
    step s = .next { s with st := FsmState.slowclk.code, trace := s.trace ++ resetEvents s.cfg } := by
  obtain ⟨hpin, hnone⟩ := resetPulse
  cases hp : s.cfg.resetPin with
  | none => simp [hnone s hst hp, resetEvents, hp]
  | some p => simp [hpin s p hst hp, resetEvents, hp, rstpulse, pins_of_wellFormed hwf hp]

/-- The state after all the panels, the first of them started in P_BEGIN. -/
def afterPanels (s : State) : State := { s with
  st := FsmState.restore.code
  k := BitVec.ofNat 2 s.cfg.n
  cs := csOf s.cfg (s.cfg.n - 1)
  y := coordOfNat (s.cfg.ah - 1)
  madctl := computeMadctl s.cfg
  inv := invEffective s.cfg
  ret := 0
  taskLive := false
  task := none
  open0 := if ∃ k, k < s.cfg.n ∧ csOf s.cfg k = 0 then s.cfg.dmaQueued else s.open0
  open1 := if ∃ k, k < s.cfg.n ∧ csOf s.cfg k = 1 then s.cfg.dmaQueued else s.open1
  bl := if s.cfg.backlightPin.isSome then .high else s.bl
  trace := s.trace ++ (List.range s.cfg.n).flatMap (fun k => panel s.cfg (csOf s.cfg k)) }

/-- One panel is served on its line, two on one line each (R36). -/
theorem run_panels {s : State} (hwf : wellFormed s.cfg = true) (hst : s.st = FsmState.pBegin.code) (hk : s.k = 0)
    (hcs : s.cs = csOf s.cfg 0) : runSteps (s.cfg.n * (14 + s.cfg.ah)) s = .next (afterPanels s) := by
  have hfirst := run_panel hwf hst
  rcases panelCount_of_wellFormed hwf with hn | hn
  · rw [hn, Nat.one_mul, hfirst]
    simp [afterPanel, afterPanels, hk, hcs, hn]
  · have hmore : s.k.toNat + 1 < s.cfg.n := by simp [hk, hn]
    have hsecond := run_panel (s := afterPanel s) hwf (if_pos hmore)
    have hline0 : csOf s.cfg 0 = 0 := by simp [csOf, csInit, hn]
    have hline1 : csOf s.cfg 1 = 1 := by simp [csOf, csInit, hn]
    have hserved0 : ∃ k, k < s.cfg.n ∧ csOf s.cfg k = 0 := ⟨0, by omega, hline0⟩
    have hserved1 : ∃ k, k < s.cfg.n ∧ csOf s.cfg k = 1 := ⟨1, by omega, hline1⟩
    rw [hn, Nat.two_mul]
    refine (runSteps_add hfirst hsecond).trans ?_
    simp only [afterPanels, if_pos hserved0, if_pos hserved1]
    cases hpin : s.cfg.backlightPin <;>
      simp [afterPanel, hk, hcs, hn, hpin, hline0, hline1, List.range_succ]

/-- The state of an accepted OP_INIT after SLOWCLK, the first panel about to begin. -/
def panelsDue (s : State) (rest : List (BitVec 2)) : State := { s with
  hostOps := rest
  st := FsmState.pBegin.code
  k := 0
  cs := csOf s.cfg 0
  clk := .div s.cfg.slowDiv
  trace := s.trace ++ resetEvents s.cfg ++ [.clkdiv s.cfg.slowDiv, .barrier] }

theorem run_panelsDue {s : State} {rest : List (BitVec 2)} (hq : isQuiescent s = true)
    (hwf : wellFormed s.cfg = true) (hops : s.hostOps = 0 :: rest) : runSteps 3 s = .next (panelsDue s rest) := by
  have hreset := step_reset (s := { s with hostOps := rest, st := FsmState.reset.code }) hwf rfl
  rw [runSteps_next (step_opInit hq hwf hops), runSteps_next hreset, runSteps_one (slowClock _ rfl)]
  rfl

/-- Settles O51: the operation with RESET and SLOWCLK, the panels, RESTORE. -/
theorem initRunsToReady : Obligations.InitRunsToReady := by
  intro s rest hq hwf hops
  have hpanels := run_panels (s := panelsDue s rest) hwf rfl rfl rfl
  have hrun := runSteps_add (runSteps_add (run_panelsDue hq hwf hops) hpanels) (runSteps_one (restoreClock _ rfl))
  have hcount : 4 + s.cfg.n * (14 + s.cfg.ah) = 3 + s.cfg.n * (14 + s.cfg.ah) + 1 := by omega
  rw [hcount]
  refine hrun.trans ?_
  simp [panelsDue, afterPanels, initTrace]

end Sys2Proof.Machine
end

section
/-! Completion and frame of every controller command (R140, R100). -/

namespace Sys2Proof.Machine

/-- Settles O42: RAMWR's events are one whole task, and the events of every other command write no register. -/
theorem commandsWriteNoBlockState : Obligations.CommandsWriteNoBlockState := by
  intro s i hop
  refine ⟨commandEvents s.cfg s.cs i, ?_⟩
  by_cases hi : i = .ramwr
  · subst hi
    exact pixelTaskLifecycle s
  · rw [if_neg hi, if_neg hi]
    exact exec_appends hop hi s

end Sys2Proof.Machine
end

section
/-! The host operations (R165 to R169): the dispatch, refused or accepted, and the backlight. -/

namespace Sys2Proof.Machine

/-! The presented operation (R85, R165). -/

theorem step_of_isQuiescent {s : State} (hq : isQuiescent s = true) : step s = stepQuiescent s := by
  obtain hst | hst := isQuiescent_iff.mp hq <;> exact step_of_code hst

/-- Settles O3: both quiescent states read the input alike. -/
theorem stepRunsThePresentedOperation : Obligations.StepRunsThePresentedOperation := by
  refine ⟨fun s code rest hq hops => ⟨?_, rfl⟩, fun s hq hops => ?_⟩ <;>
    rw [step_of_isQuiescent hq, stepQuiescent, hops]

/-- Every host operation goes through the one dispatch of R165. -/
theorem exec_hostOp {i : Instr} (h : i.isHostOp = true) : ∃ body, ∀ s, exec i s = dispatch body s := by
  cases i with
  | opInit => exact ⟨goto .reset, fun _ => rfl⟩
  | opDisplayOn => exact ⟨displayOnBody, fun _ => rfl⟩
  | opDisplayOff => exact ⟨displayOffBody, fun _ => rfl⟩
  | opDeinit => exact ⟨deinitBody, fun _ => rfl⟩
  | _ => cases h

theorem exec_hostOp_refused {i : Instr} (h : i.isHostOp = true) {s : State} (hq : isQuiescent s = true)
    {r : RefuseReason} (hr : firstFailedCheck s.cfg = some r) : exec i s = .next (raiseRefuse r s) := by
  obtain ⟨body, hbody⟩ := exec_hostOp h
  rw [hbody, dispatch_refused hq hr]

theorem exec_hostOp_busy {i : Instr} (h : i.isHostOp = true) {s : State} (hq : isQuiescent s = false) :
    exec i s = .fault .operationNotRead := by
  obtain ⟨body, hbody⟩ := exec_hostOp h
  rw [hbody, dispatch_busy hq]

/-- A dispatch under a well-formed configuration runs the operation's body. -/
theorem dispatch_of_wellFormed {s : State} (hq : isQuiescent s = true) (hwf : wellFormed s.cfg = true)
    (body : State → State) : dispatch body s = .next (body s) :=
  dispatch_accepted hq ((firstFailedCheck_eq_none_iff s.cfg).mpr hwf)

/-- Settles O26: every operation is one dispatch, and only the bodies differ. -/
theorem hostDispatch : Obligations.HostDispatch :=
  ⟨fun _ _ _ hop hq hr => exec_hostOp_refused hop hq hr,
    fun _ hq hwf => dispatch_of_wellFormed hq hwf (goto .reset),
    fun _ hq hwf => dispatch_of_wellFormed hq hwf deinitBody,
    fun _ _ hop hq => exec_hostOp_busy hop hq⟩

/-! The backlight (R167, R168). -/

theorem exec_opDisplayOn {s : State} (hq : isQuiescent s = true) (hwf : wellFormed s.cfg = true) :
    exec .opDisplayOn s = .next (displayOnBody s) := dispatch_of_wellFormed hq hwf displayOnBody

theorem exec_opDisplayOff {s : State} (hq : isQuiescent s = true) (hwf : wellFormed s.cfg = true) :
    exec .opDisplayOff s = .next (displayOffBody s) := dispatch_of_wellFormed hq hwf displayOffBody

/-- Settles O27: the level event is on the backlight pin, so it writes `bl`. -/
theorem backlightOperations : Obligations.BacklightOperations := by
  refine ⟨fun s p hq hwf hp => ?_, fun s hq hwf hp => ?_, fun s r hq hr =>
    ⟨exec_hostOp_refused rfl hq hr, exec_hostOp_refused rfl hq hr⟩⟩ <;>
    rw [exec_opDisplayOn hq hwf, exec_opDisplayOff hq hwf] <;>
    simp [displayOnBody, displayOffBody, hp]

end Sys2Proof.Machine
end

section
/-! The operation input outside the quiescent states (R136, R165, R180). -/

namespace Sys2Proof.Machine

/-- An event neither reads nor writes the operation input. -/
theorem emit_setHostOps (e : Event) (ops : List (BitVec 2)) (s : State) :
    emit e { s with hostOps := ops } = { emit e s with hostOps := ops } := by
  cases e with
  | gpioSet p | gpioClr p =>
    simp only [emit, shadow, setLevel]
    split <;> rfl
  | beginTx c | endTx c =>
    simp only [emit, shadow, setOpen]
    split <;> rfl
  | _ => rfl

theorem emitAll_setHostOps (es : List Event) (ops : List (BitVec 2)) (s : State) :
    emitAll es { s with hostOps := ops } = { emitAll es s with hostOps := ops } := by
  induction es generalizing s with
  | nil => rfl
  | cons e es ih => rw [emitAll, emit_setHostOps, ih, emitAll]

theorem stateEvents_setHostOps (S : FsmState) (ops : List (BitVec 2)) (s : State) :
    stateEvents S { s with hostOps := ops } = stateEvents S s := by
  cases S <;> rfl

/-- No register write depends on the input; the three states with a loop decide on a counter and the configuration. -/
theorem stateWrites_setHostOps (S : FsmState) (ops : List (BitVec 2)) (s t : State) :
    stateWrites S { s with hostOps := ops } { t with hostOps := ops } =
      { stateWrites S s t with hostOps := ops } := by
  cases S with
  | clrRow | pEnd | dNext =>
    simp only [stateWrites]
    split <;> rfl
  | _ => rfl

theorem step_of_no_state {s : State} (h : FsmState.ofCode s.st = none) : step s = .fault .unusedCode := by
  simp [step, stepBlock, h]

/-- Settles O44: neither the events nor the register writes of a busy state involve the input. -/
theorem busyBlockIgnoresTheInput : Obligations.BusyBlockIgnoresTheInput := by
  intro s ops hq
  cases hS : FsmState.ofCode s.st with
  | none =>
    rw [step_of_no_state (s := { s with hostOps := ops }) hS, step_of_no_state hS]
    rfl
  | some S =>
    have hbusy : S.quiescent = false := (isQuiescent_of_ofCode hS).symm.trans hq
    rw [step_busy (s := { s with hostOps := ops }) hS hbusy, step_busy hS hbusy, andThen_next,
      stateEvents_setHostOps, emitAll_setHostOps, stateWrites_setHostOps]

end Sys2Proof.Machine
end

section
/-! De-initialisation (R169 to R171): the panel loop, and the whole operation back to the quiescent state it came
from. -/

namespace Sys2Proof.Machine

/-- Settles O25: the two states emit nothing, and D_NEXT decides on the panel index. -/
theorem deinitPanelLoop : Obligations.DeinitPanelLoop := by
  refine ⟨fun s hst => step_busy_of_code hst rfl, fun s hst hk => ?_, fun s hst hk => ?_⟩
  · rw [step_busy_of_code hst rfl, stateWrites, if_pos hk]
    rfl
  · rw [step_busy_of_code hst rfl, stateWrites, if_neg (Nat.not_lt.mpr hk), ← apply_ite FsmState.code]
    rfl

/-- The state in which the clear of the panel that D_NEXT serves begins. -/
def deinitClearDue (s : State) : State := { s with
  cs := csOf s.cfg s.k.toNat
  k := s.k + 1
  y := 0
  ret := 1
  st := FsmState.clrRow.code }

/-- One panel: D_NEXT and its clear, back in D_NEXT. -/
theorem run_deinitPanel {s : State} (hwf : wellFormed s.cfg = true) (hst : s.st = FsmState.dNext.code)
    (hk : s.k.toNat < s.cfg.n) : runSteps (s.cfg.ah + 2) s = .next { s with
      k := s.k + 1
      cs := csOf s.cfg s.k.toNat
      y := coordOfNat (s.cfg.ah - 1)
      ret := 1
      taskLive := false
      task := none
      trace := s.trace ++ clear s.cfg (csOf s.cfg s.k.toNat) } := by
  obtain ⟨-, hserve, -⟩ := deinitPanelLoop
  rw [runSteps_next (hserve s hst hk) (s.cfg.ah + 1)]
  refine (run_clear (s := deinitClearDue s) hwf rfl rfl).trans ?_
  simp [deinitClearDue, hst]

/-- The panels from index `k` to the last one. -/
theorem run_deinitPanels (m : Nat) {s : State} (hwf : wellFormed s.cfg = true) (hst : s.st = FsmState.dNext.code)
    (hk : s.k.toNat + (m + 1) = s.cfg.n) : runSteps ((m + 1) * (s.cfg.ah + 2)) s = .next { s with
      k := BitVec.ofNat 2 s.cfg.n
      cs := csOf s.cfg (s.cfg.n - 1)
      y := coordOfNat (s.cfg.ah - 1)
      ret := 1
      taskLive := false
      task := none
      trace := s.trace ++ (List.range' s.k.toNat (m + 1)).flatMap (fun k => clear s.cfg (csOf s.cfg k)) } := by
  induction m generalizing s with
  | zero =>
    have hlast : s.k + 1 = BitVec.ofNat 2 s.cfg.n := by simp [← hk, BitVec.ofNat_add]
    rw [Nat.zero_add, Nat.one_mul, run_deinitPanel hwf hst (by omega), hlast]
    simp [← hk]
  | succ m ih =>
    have hmore : s.k.toNat < s.cfg.n := by omega
    have hsucc := succ_toNat_of_lt_n hwf hmore
    have hcount : (m + 1 + 1) * (s.cfg.ah + 2) = s.cfg.ah + 2 + (m + 1) * (s.cfg.ah + 2) := by ring
    rw [hcount, runSteps_add (run_deinitPanel hwf hst hmore) (ih hwf hst (by simp only [hsucc]; omega))]
    simp only [hsucc, List.range'_succ, List.flatMap_cons, List.append_assoc]

/-! The whole operation (R169). -/

/-- The state of an accepted OP_DEINIT after D_START, the panel loop about to begin. -/
def deinitPanelsDue (s : State) (rest : List (BitVec 2)) : State := { s with
  hostOps := rest
  st := FsmState.dNext.code
  k := 0
  qret := if s.st = FsmState.ready.code then 1 else 0 }

theorem run_deinitPanelsDue {s : State} {rest : List (BitVec 2)} (hq : isQuiescent s = true)
    (hwf : wellFormed s.cfg = true) (hops : s.hostOps = 3 :: rest) :
    runSteps 2 s = .next (deinitPanelsDue s rest) := by
  obtain ⟨hpresented, -⟩ := stepRunsThePresentedOperation
  obtain ⟨-, -, haccept, -⟩ := hostDispatch
  obtain ⟨hstart, -⟩ := deinitPanelLoop
  have hstep := (hpresented s 3 rest hq hops).1.trans (haccept { s with hostOps := rest } hq hwf)
  rw [runSteps_next hstep, runSteps_one (hstart _ rfl)]
  rfl

/-- The state that `qret` makes the last D_NEXT return to is the one the operation came from (R32). -/
theorem returnCode_of_isQuiescent {s : State} (hq : isQuiescent s = true) :
    (if s.st = FsmState.ready.code then FsmState.ready.code else FsmState.idle.code) = s.st := by
  obtain hst | hst := isQuiescent_iff.mp hq <;> rw [hst] <;> rfl

/-- Settles O52: the operation with D_START, the panels, and the last D_NEXT, which returns through `qret`. -/
theorem deinitClearsEveryPanelAndReturns : Obligations.DeinitClearsEveryPanelAndReturns := by
  intro s rest hq hwf hops
  obtain ⟨-, -, hreturn⟩ := deinitPanelLoop
  have hn := panelCount_of_wellFormed hwf
  obtain ⟨m, hm⟩ : ∃ m, s.cfg.n = m + 1 := ⟨s.cfg.n - 1, by omega⟩
  have hpanels := run_deinitPanels m (s := deinitPanelsDue s rest) hwf rfl (by simp [deinitPanelsDue, hm])
  have hdone : s.cfg.n ≤ (BitVec.ofNat 2 s.cfg.n).toNat := by rw [BitVec.toNat_ofNat]; omega
  have hrun := runSteps_add (runSteps_add (run_deinitPanelsDue hq hwf hops) hpanels)
    (runSteps_one (hreturn _ rfl hdone))
  have hcount : 3 + s.cfg.n * (s.cfg.ah + 2) = 2 + (m + 1) * (s.cfg.ah + 2) + 1 := by rw [hm]; omega
  rw [hcount]
  refine hrun.trans ?_
  simp [deinitPanelsDue, returnCode_of_isQuiescent hq, deinitTrace, hm, List.range_eq_range']

end Sys2Proof.Machine
end

section
/-! The refused mark (R173, R175, R181): what a refused operation changes, and what no step changes. -/

namespace Sys2Proof.Machine

/-- The step that takes an operation under a failed check raises the refusal on what is left of the input. -/
theorem step_refused {s : State} {code : BitVec 2} {rest : List (BitVec 2)} {r : RefuseReason}
    (hq : isQuiescent s = true) (hops : s.hostOps = code :: rest) (hr : firstFailedCheck s.cfg = some r) :
    step s = .next (raiseRefuse r { s with hostOps := rest }) := by
  obtain ⟨hpresented, -⟩ := stepRunsThePresentedOperation
  rw [(hpresented s code rest hq hops).1, exec_decodeHostOp]
  exact dispatch_refused hq hr

theorem raiseRefuse_of_unmarked {s : State} (hm : s.refusedMark = none) (r : RefuseReason) :
    raiseRefuse r s = { s with refusedMark := some r } := by
  rw [raiseRefuse, hm, Option.getD_none]

/-- A refusal of a run that is already marked changes nothing (log 19). -/
theorem raiseRefuse_of_marked {s : State} {r' : RefuseReason} (hm : s.refusedMark = some r') (r : RefuseReason) :
    raiseRefuse r s = s := by
  rw [raiseRefuse, hm, Option.getD_some, ← hm]

/-- Settles O28: the step is one refusal, which writes the mark of an unmarked run only. -/
theorem refusalChangesOnlyTheMark : Obligations.RefusalChangesOnlyTheMark := by
  intro s code rest r hq hops hr
  rw [step_refused hq hops hr]
  exact ⟨fun hm => congrArg _ (raiseRefuse_of_unmarked (s := { s with hostOps := rest }) hm r),
    fun _ hm => congrArg _ (raiseRefuse_of_marked (s := { s with hostOps := rest }) hm r)⟩

/-- All a step can do to the mark: nothing, or raise the first failed check from a quiescent state. -/
theorem step_refusedMark_cases {s t : State} (h : step s = .next t) :
    t.refusedMark = s.refusedMark ∨
      (isQuiescent s = true ∧ ∃ r, firstFailedCheck s.cfg = some r ∧
        t.refusedMark = some (s.refusedMark.getD r)) := by
  obtain ⟨S, hS, ⟨-, rfl⟩ | ⟨hq, code, rest, -, ⟨r, hr, rfl⟩ | ⟨-, rfl⟩⟩⟩ := step_cases h
  · exact .inl (by simp)
  · exact .inr ⟨(isQuiescent_of_ofCode hS).trans hq, r, hr, rfl⟩
  · exact .inl (by simp)

/-- Settles O29: only a refusal touches the mark, and it keeps one that is set. -/
theorem refusedMarkIsSetOnceAndStays : Obligations.RefusedMarkIsSetOnceAndStays := by
  refine ⟨fun s t r h hm => ?_, fun s t r h hm ht => ?_⟩
  · obtain hsame | ⟨-, r', -, hraised⟩ := step_refusedMark_cases h
    · exact hsame.trans hm
    · rw [hraised, hm, Option.getD_some]
  · obtain hsame | ⟨hq, r', hr, hraised⟩ := step_refusedMark_cases h
    · simp [hsame, hm] at ht
    · obtain rfl : r' = r := by simpa [hraised, hm] using ht
      exact ⟨hq, hr, wellFormed_eq_false hr⟩

end Sys2Proof.Machine
end

section
/-! R176's table: the ten checks, each with its condition, and the first that fails. -/

namespace Sys2Proof

open Machine

/-- The verdict of the check a reason names. -/
def checkPasses (cfg : Config) : RefuseReason → Bool
  | .rfGeometry => checkGeometry cfg
  | .rfFinalRange => checkFinalRange cfg
  | .rfCursor8Range => checkCursor8Range cfg
  | .rfPanelCount => checkPanelCount cfg
  | .rfBpp => checkBpp cfg
  | .rfVscrollOffset => checkVscrollOffset cfg
  | .rfMadctlMasks => checkMadctlMasks cfg
  | .rfOpcodes => checkOpcodes cfg
  | .rfClkdiv => checkClkdiv cfg
  | .rfPins => checkPins cfg

/-- The reasons in table order, K1 to K10. -/
def checkTable : List RefuseReason :=
  [.rfGeometry, .rfFinalRange, .rfCursor8Range, .rfPanelCount, .rfBpp, .rfVscrollOffset, .rfMadctlMasks,
    .rfOpcodes, .rfClkdiv, .rfPins]

theorem configChecks_eq_map (cfg : Config) : configChecks cfg = checkTable.map fun r => (r, checkPasses cfg r) := rfl

theorem mem_checkTable (r : RefuseReason) : r ∈ checkTable := by cases r <;> decide

theorem checkTable_sorted : checkTable.Pairwise (checkNumber · < checkNumber ·) := by decide

/-- In a table sorted by row number, the first failure is the one that fails while every earlier row passes. -/
theorem firstFailed_eq_some_iff {l : List RefuseReason} (hl : l.Pairwise (checkNumber · < checkNumber ·))
    (ok : RefuseReason → Bool) (r : RefuseReason) :
    firstFailed (l.map fun r => (r, ok r)) = some r ↔
      r ∈ l ∧ ok r = false ∧ ∀ r' ∈ l, checkNumber r' < checkNumber r → ok r' = true := by
  induction l with
  | nil => simp [firstFailed]
  | cons a l ih =>
    obtain ⟨hfirst, hrest⟩ := List.pairwise_cons.mp hl
    rw [List.map_cons, firstFailed]
    cases ha : ok a with
    | true =>
      have hne : ok r = false → r ≠ a := fun hr he => by simp [← he, hr] at ha
      rw [if_pos rfl, ih hrest, List.forall_mem_cons, List.mem_cons]
      constructor
      · rintro ⟨hmem, hr, hbefore⟩
        exact ⟨.inr hmem, hr, fun _ => ha, hbefore⟩
      · rintro ⟨hmem, hr, -, hbefore⟩
        exact ⟨hmem.resolve_left (hne hr), hr, hbefore⟩
    | false =>
      rw [if_neg Bool.false_ne_true, Option.some.injEq, List.forall_mem_cons, List.mem_cons]
      constructor
      · rintro rfl
        exact ⟨.inl rfl, ha, fun h => absurd h (lt_irrefl _), fun r' hr' h => absurd h (hfirst r' hr').asymm⟩
      · rintro ⟨rfl | hmem, -, hpasses, -⟩
        · rfl
        · simp [hpasses (hfirst r hmem)] at ha

/-! Each check is the condition of its row. -/

theorem oneHot_iff (b : Byte) : oneHot b = true ↔ ExactlyOneBit b := by
  simp only [oneHot, ExactlyOneBit, Nat.exists_lt_succ_right, beq_iff_eq, Bool.or_eq_true]
  simp

theorem pinExists_iff (cfg : Config) (o : Option Pin) :
    pinExists cfg o = true ↔ ∀ p, o = some p → p ∈ cfg.pinSpace := by
  cases o <;> simp [pinExists]

theorem checkCursor8Range_iff (cfg : Config) :
    checkCursor8Range cfg = true ↔ checkCondition cfg .rfCursor8Range := by
  cases hm : cfg.busMode <;> simp [checkCursor8Range, checkCondition, hm]

theorem checkVscrollOffset_iff (cfg : Config) :
    checkVscrollOffset cfg = true ↔ checkCondition cfg .rfVscrollOffset := by
  cases hv : vscrollOn cfg (computeMadctl cfg) <;> simp [checkVscrollOffset, checkCondition, hv]

theorem checkMadctlMasks_iff (cfg : Config) :
    checkMadctlMasks cfg = true ↔ checkCondition cfg .rfMadctlMasks := by
  simp only [checkMadctlMasks, checkCondition, Bool.and_eq_true, List.all_cons, List.all_nil, oneHot_iff,
    allDistinct_iff, and_assoc, and_true]

theorem checkPins_iff (cfg : Config) : checkPins cfg = true ↔ checkCondition cfg .rfPins := by
  simp only [checkPins, checkCondition, Bool.and_eq_true, pinExists_iff, and_assoc]
  refine and_congr_right fun _ => and_congr_right fun _ => ?_
  cases cfg.resetPin <;> cases cfg.backlightPin <;> simp

theorem checkPasses_iff (cfg : Config) (r : RefuseReason) : checkPasses cfg r = true ↔ checkCondition cfg r := by
  cases r with
  | rfCursor8Range => exact checkCursor8Range_iff cfg
  | rfVscrollOffset => exact checkVscrollOffset_iff cfg
  | rfMadctlMasks => exact checkMadctlMasks_iff cfg
  | rfOpcodes => exact allDistinct_iff _
  | rfPins => exact checkPins_iff cfg
  | rfGeometry | rfFinalRange | rfPanelCount | rfBpp | rfClkdiv => exact decide_eq_true_iff

theorem wellFormed_iff (cfg : Config) : wellFormed cfg = true ↔ ∀ r, checkCondition cfg r := by
  simp [wellFormed, configChecks_eq_map, mem_checkTable, checkPasses_iff]

theorem firstFailedCheck_eq_some_iff (cfg : Config) (r : RefuseReason) :
    firstFailedCheck cfg = some r ↔
      ¬ checkCondition cfg r ∧ ∀ r', checkNumber r' < checkNumber r → checkCondition cfg r' := by
  rw [firstFailedCheck, configChecks_eq_map, firstFailed_eq_some_iff checkTable_sorted]
  simp [mem_checkTable, ← checkPasses_iff]

/-- Settles O30: each check is its row's condition, and the rows stand in the order of their numbers. -/
theorem checksAreTheTableInOrder : Obligations.ChecksAreTheTableInOrder :=
  ⟨wellFormed_iff, firstFailedCheck_eq_some_iff, firstFailedCheck_eq_none_iff⟩

end Sys2Proof
end

section
/-! The delays of an Init (R205): the pulse before the panels, the commands of each panel, the settle delay after
them; a clear has none. -/

namespace Sys2Proof.Machine

/-! The sum of the delays of a list. -/

@[simp] theorem delayTotal_append (l l' : List Event) : delayTotal (l ++ l') = delayTotal l + delayTotal l' := by
  induction l with
  | nil => simp [delayTotal]
  | cons e l ih => cases e <;> simp [delayTotal, ih, Nat.add_assoc]

theorem delayTotal_eq_zero {l : List Event} (h : ∀ e ∈ l, ∀ t, e ≠ .delay t) : delayTotal l = 0 := by
  induction l with
  | nil => rfl
  | cons e l ih =>
    obtain ⟨he, hl⟩ := List.forall_mem_cons.mp h
    rw [delayTotal, ih hl]
    exact he

theorem delayTotal_flatMap_range {f : Nat → List Event} {m : Nat} (h : ∀ k, delayTotal (f k) = m) (n : Nat) :
    delayTotal ((List.range n).flatMap f) = n * m := by
  induction n with
  | zero => simp [delayTotal]
  | succ n ih => simp [List.range_succ, ih, h, Nat.succ_mul]

@[simp] theorem delayTotal_whenOn (b : Bool) (l : List Event) :
    delayTotal (whenOn b l) = if b then delayTotal l else 0 := by
  cases b <;> rfl

/-! The parts of an Init. -/

theorem resetEvents_delayTotal (cfg : Config) :
    delayTotal (resetEvents cfg) = if cfg.resetPin.isSome then 3 * cfg.t.reset else 0 := by
  cases hp : cfg.resetPin with
  | none => simp [resetEvents, hp, delayTotal]
  | some p =>
    simp only [resetEvents, hp, rstpulse, delayTotal, Option.isSome_some, if_true]
    omega

/-- The delays of a panel's commands: each is waited for once, and SWRESET unless it is rejected. -/
theorem panelCommands_delayTotal (cfg : Config) (c : Line) :
    delayTotal (panelCommands cfg c) =
      (if cfg.fNoSwreset then 0 else cfg.t.swreset) + cfg.t.slpout + cfg.t.colmod + cfg.t.madctl
        + cfg.t.noron + cfg.t.dispon := by
  have hinvert : delayTotal (if invEffective cfg then [.xfer c cfg.opc.invon []] else [.xfer c cfg.opc.invoff []]) =
      0 := by
    split <;> rfl
  cases hsw : cfg.fNoSwreset <;> simp [panelCommands, delayTotal, hinvert, hsw, Nat.add_assoc]

theorem backlightEvents_delayTotal (cfg : Config) : delayTotal (backlightEvents cfg) = 0 := by
  refine delayTotal_eq_zero fun e he t => ?_
  obtain ⟨p, rfl | rfl⟩ := mem_backlightEvents he <;> exact nofun

theorem delayTotal_of_isClearEvent {cfg : Config} {l : List Event} (h : ∀ e ∈ l, isClearEvent cfg e = true) :
    delayTotal l = 0 := by
  refine delayTotal_eq_zero fun e he t => ?_
  rintro rfl
  exact Bool.false_ne_true (h _ he)

theorem clear_delayTotal (cfg : Config) (c : Line) : delayTotal (clear cfg c) = 0 :=
  delayTotal_of_isClearEvent fun _ => isClearEvent_of_mem_clear

/-- In a block only the commands wait. -/
theorem panel_delayTotal (cfg : Config) (c : Line) :
    delayTotal (panel cfg c) = delayTotal (panelCommands cfg c) := by
  simp [panel, backlightEvents_delayTotal, clear_delayTotal, delayTotal]

theorem initTrace_delayTotal (cfg : Config) : delayTotal (initTrace cfg) = minInitTime cfg := by
  have hpanels := delayTotal_flatMap_range
    (fun k => (panel_delayTotal cfg (csOf cfg k)).trans (panelCommands_delayTotal cfg (csOf cfg k))) cfg.n
  simp [initTrace, minInitTime, resetEvents_delayTotal, hpanels, delayTotal, Nat.add_assoc]

/-- Settles O56: an Init's delays part by part; a de-initialisation is of clear events, and none of them waits. -/
theorem initDelayTotal : Obligations.InitDelayTotal := by
  obtain ⟨-, hdeinit⟩ := clearAndDeinitCounts
  exact ⟨initTrace_delayTotal, fun cfg => delayTotal_of_isClearEvent (hdeinit cfg).2⟩

end Sys2Proof.Machine
end
